-- ==== Sys2Proof/Word.lean ====
section
/-!
DEFINITION. Words of the Xenon instruction-decode core: the widths of 00_scope.md R11 and the names used for them.
Bit numbering is LSB-0 everywhere (00_scope.md R12), except for the operands of ROTMASK (R13).
-/

namespace Sys2Proof

/-- A guest instruction word, `WORD_W` = 32 bits (00_scope.md R11; R59: every word has this length). -/
abbrev InstrWord := BitVec 32

/-- A DecodeIndex, `IDX_W` = 17 bits: "the sole key into all three tables" (10_state.md R26). -/
abbrev DecodeIndex := BitVec 17

/-- A request on a command port, 41 bits (30_encoding.md R42). -/
abbrev Request := BitVec 41

/-- The first operand `a` of a request (30_encoding.md R42). -/
abbrev OperandA := BitVec 32

/-- The second operand `b` of a request (30_encoding.md R42). -/
abbrev OperandB := BitVec 6

/-- A response `data`, 64 bits (30_encoding.md R42, R44). -/
abbrev Data := BitVec 64

/-- `TBL_N`, the number of entries of each table (00_scope.md R11, 10_state.md R22). -/
def tableSize : Nat := 131072

end Sys2Proof
end

