-- ==== Sys2Proof/Machine/Operands.lean ====
section
/-!
DEFINITION. The operand forms: the fields of a request and their range checks (30_encoding.md R42 to R46), the fields
of an instruction word (R48) and of a DecodeIndex (R49), the index of a word (41_indexer.md R63), and the words the
PPC32 rows stand for (30_encoding.md R52, R53).
-/

namespace Sys2Proof.Machine

/-! ## Requests -/

/-- `req = (op << 38) | (b << 32) | a` (30_encoding.md R42). -/
def requestOf (op : BitVec 3) (b : OperandB) (a : OperandA) : Request := op ++ b ++ a

/-- `op = req[40:38]` (30_encoding.md R42). -/
def reqOp (req : Request) : BitVec 3 := req.extractLsb' 38 3

/-- `b = req[37:32]` (30_encoding.md R42). -/
def reqB (req : Request) : OperandB := req.extractLsb' 32 6

/-- `a = req[31:0]` (30_encoding.md R42). -/
def reqA (req : Request) : OperandA := req.extractLsb' 0 32

/-- The index operand `a[16:0]` of IS_BRANCH and TABLE_READ (30_encoding.md R43). -/
def indexOperand (a : OperandA) : DecodeIndex := a.extractLsb' 0 17

/-- `a[31:17] = 0`, the range check of an index operand (30_encoding.md R46 (a), (b)). -/
def indexInRange (a : OperandA) : Bool := a.extractLsb' 17 15 == 0#15

/-- The operand `mb = a[5:0]` of ROTMASK (30_encoding.md R43). -/
def mbOperand (a : OperandA) : BitVec 6 := a.extractLsb' 0 6

/-- `a[31:6] = 0`, the range check of `mb` (30_encoding.md R46 (d)). -/
def mbInRange (a : OperandA) : Bool := a.extractLsb' 6 26 == 0#26

/-- The three tables (10_state.md R22). -/
inductive TableSel where
  | it
  | jt
  | nt
deriving DecidableEq, Repr

/-- The number of a table in the select field of TABLE_READ (30_encoding.md R44). -/
def tableCode : TableSel → Nat
  | .it => 0
  | .jt => 1
  | .nt => 2

/-- The table that TABLE_READ's `b` selects: `b[1:0]` 0 `IT`, 1 `JT`, 2 `NT` (30_encoding.md R44); none where
`b[5:2]` is not 0 or `b[1:0]` is 3 (R46 (c)). -/
def selectOperand (b : OperandB) : Option TableSel :=
  match b.toNat with
  | 0 => some .it
  | 1 => some .jt
  | 2 => some .nt
  | _ => none

/-! ## Instruction words and indices -/

/-- `PO = w[31:26]` (30_encoding.md R48). -/
def wordPO (w : InstrWord) : BitVec 6 := w.extractLsb' 26 6

/-- `F = w[10:0]` (30_encoding.md R48). -/
def wordF (w : InstrWord) : BitVec 11 := w.extractLsb' 0 11

/-- `XO = w[10:1]` (30_encoding.md R48). -/
def wordXO (w : InstrWord) : BitVec 10 := w.extractLsb' 1 10

/-- The 15 bits `w[25:11]`, which the indexer drops (41_indexer.md R64). -/
def wordRest (w : InstrWord) : BitVec 15 := w.extractLsb' 11 15

/-- `rotl_32(w, n)` for 0 < n < 32 (00_scope.md R14). -/
def rotl32 (w : InstrWord) (n : Nat) : InstrWord := (w <<< n) ||| (w >>> (32 - n))

/-- The index of a word, `rotl_32(w, 6)[16:0]` (41_indexer.md R63). -/
def indexOf (w : InstrWord) : DecodeIndex := (rotl32 w 6).extractLsb' 0 17

/-- `idx[5:0]`, the primary opcode of an index (30_encoding.md R49). -/
def idxPO (idx : DecodeIndex) : BitVec 6 := idx.extractLsb' 0 6

/-- `idx[16:6]`, the F field of an index (30_encoding.md R49). -/
def idxF (idx : DecodeIndex) : BitVec 11 := idx.extractLsb' 6 11

/-- `idx[16:7]`, the XL-form extended opcode of an index (45_branch_classifier.md R93). -/
def idxXO (idx : DecodeIndex) : BitVec 10 := idx.extractLsb' 7 10

/-! ## The words of the PPC32 rows -/

/-- `NOP_WORD`, the fast-path literal (00_scope.md R11). -/
def nopWord : InstrWord := 0x60000000#32

/-- A word from its primary opcode and its other 26 bits. -/
def poWord (po : BitVec 6) (rest : BitVec 26) : InstrWord := po ++ rest

/-- A word from its primary opcode, the 15 bits 25:11 and its `F` field. -/
def fWord (po : BitVec 6) (rest : BitVec 15) (f : BitVec 11) : InstrWord := po ++ rest ++ f

/-- A word from its primary opcode, the 15 bits 25:11, the XL-form extended opcode and bit 0. -/
def xlWord (po : BitVec 6) (rest : BitVec 15) (xo : BitVec 10) (lk : BitVec 1) : InstrWord := po ++ rest ++ xo ++ lk

end Sys2Proof.Machine
end

