-- ==== Sys2Proof/Syntax.lean ====
section
/-!
DEFINITION. The instructions: one constructor per row of spec/opcode_table.json. The first eight are the commands of a
port (30_encoding.md R43) with both operand fields as they arrive; the other nine are the instruction words the block's
own logic or the source fixes (30_encoding.md R52, R53), each with the bits of the word that its row leaves free.
-/

namespace Sys2Proof

/-- What a requester puts on a port: a 41-bit request (30_encoding.md R42), or a bare instruction word
(the rows of format PPC32; DESIGN CHOICE, notes/assumptions/12.md). -/
inductive Presented where
  | request (req : Request)
  | word (w : InstrWord)
deriving DecidableEq, Repr, Inhabited

/-- The rows of the opcode table. -/
inductive Instr where
  /-- op 0, `DECODE w` (44_dispatcher.md R88). -/
  | decode (w : OperandA) (b : OperandB)
  /-- op 1, `DECODE_JIT w` (44_dispatcher.md R89). -/
  | decodeJit (w : OperandA) (b : OperandB)
  /-- op 2, `DECODE_NAME w` (44_dispatcher.md R90). -/
  | decodeName (w : OperandA) (b : OperandB)
  /-- op 3, `IS_BRANCH idx` (45_branch_classifier.md R93). -/
  | isBranch (a : OperandA) (b : OperandB)
  /-- op 4, `INDEX w` (41_indexer.md R63). -/
  | index (w : OperandA) (b : OperandB)
  /-- op 5, `ROTMASK mb, me` (40_rotate_mask.md R61). -/
  | rotmask (a : OperandA) (b : OperandB)
  /-- op 6, `TABLE_READ idx, sel` (44_dispatcher.md R91). -/
  | tableRead (a : OperandA) (b : OperandB)
  /-- op 7, the reserved command code (30_encoding.md R47). -/
  | reserved (a : OperandA) (b : OperandB)
  /-- The no-op word `0x60000000` (30_encoding.md R52). -/
  | nop
  /-- `ori`: PO 24, every other bit free (30_encoding.md R53); all of them 0 is the no-op word, another row. -/
  | ori (rest : BitVec 26)
  /-- `add`: PO 31, `F` = 0x214, bits 25:11 free (30_encoding.md R53). -/
  | add (rest : BitVec 15)
  /-- `add.`: PO 31, `F` = 0x215, bits 25:11 free (30_encoding.md R53). -/
  | addRc (rest : BitVec 15)
  /-- `b`, `ba`, `bl`, `bla`: PO 18 (30_encoding.md R52). -/
  | branch (rest : BitVec 26)
  /-- `bc` and its forms: PO 16 (30_encoding.md R52). -/
  | bc (rest : BitVec 26)
  /-- `bclr`, `bclrl`: PO 19, XO 16 (30_encoding.md R52); `lk` is bit 0. -/
  | bclr (rest : BitVec 15) (lk : BitVec 1)
  /-- `bcctr`, `bcctrl`: PO 19, XO 528 (30_encoding.md R52); `lk` is bit 0. -/
  | bcctr (rest : BitVec 15) (lk : BitVec 1)
  /-- `rfid`: PO 19, XO 18 (30_encoding.md R52); `lk` is bit 0. -/
  | rfid (rest : BitVec 15) (lk : BitVec 1)
deriving DecidableEq, Repr

end Sys2Proof
end

