-- ==== Sys2Proof/WellFormed.lean ====
section
/-!
DEFINITION. Which instructions are well-formed: the reserved command code and the range checks of a request
(30_encoding.md R46, R47), and the one overlap of two rows of the opcode table, nop and ori (notes/assumptions/14.md).
-/

namespace Sys2Proof

/-- The request passes the checks of 30_encoding.md R46 (a) to (d) and its command code is not reserved (R47). These
are "exactly" the causes of a refusal (60_exceptions.md R98). A bare word has no range (20_memory.md R31). -/
def Instr.inRange : Instr → Bool
  | .decode _ _ => true
  | .decodeJit _ _ => true
  | .decodeName _ _ => true
  | .isBranch a _ => Machine.indexInRange a
  | .index _ _ => true
  | .rotmask a _ => Machine.mbInRange a
  | .tableRead a b => Machine.indexInRange a && (Machine.selectOperand b).isSome
  | .reserved _ _ => false
  | .nop => true
  | .ori _ => true
  | .add _ => true
  | .addRc _ => true
  | .branch _ => true
  | .bc _ => true
  | .bclr _ _ => true
  | .bcctr _ _ => true
  | .rfid _ _ => true

/-- The term is the one its encoding stands for: the word of `ori` with 26 zero bits is the no-op word, whose row is
the more specific one (notes/assumptions/14.md). -/
def Instr.canonical : Instr → Bool
  | .decode _ _ => true
  | .decodeJit _ _ => true
  | .decodeName _ _ => true
  | .isBranch _ _ => true
  | .index _ _ => true
  | .rotmask _ _ => true
  | .tableRead _ _ => true
  | .reserved _ _ => true
  | .nop => true
  | .ori rest => rest != 0#26
  | .add _ => true
  | .addRc _ => true
  | .branch _ => true
  | .bc _ => true
  | .bclr _ _ => true
  | .bcctr _ _ => true
  | .rfid _ _ => true

/-- A well-formed instruction: one the block gives a meaning other than a refusal, in its canonical form. -/
def Instr.wf (i : Instr) : Bool := i.inRange && i.canonical

end Sys2Proof
end

