-- ==== Sys2Proof/Decode.lean ====
section
/-!
DEFINITION. The decoder, total on everything a port can carry, and the encoder written from the same tables
(30_encoding.md R42, R43, R52, R53). A value that is too wide for its format is refused by name. The encoder stands
after the decoder.
-/

namespace Sys2Proof

open Machine

/-- Why bits are no presentation. -/
inductive DecodeError where
  /-- A bit above bit 40 is set: a request has 41 bits (30_encoding.md R42). -/
  | requestTooWide
  /-- A bit above bit 31 is set: an instruction word has 32 bits (30_encoding.md R59). -/
  | wordTooWide
deriving DecidableEq, Repr

/-- The command of a request (30_encoding.md R43). Every request is some command: code 7 is the reserved one. -/
def decodeRequest (req : Request) : Instr :=
  match (reqOp req).toNat with
  | 0 => .decode (reqA req) (reqB req)
  | 1 => .decodeJit (reqA req) (reqB req)
  | 2 => .decodeName (reqA req) (reqB req)
  | 3 => .isBranch (reqA req) (reqB req)
  | 4 => .index (reqA req) (reqB req)
  | 5 => .rotmask (reqA req) (reqB req)
  | 6 => .tableRead (reqA req) (reqB req)
  | _ => .reserved (reqA req) (reqB req)

/-- The XL-form words of PO 19 that have a row (30_encoding.md R52), or none. -/
def decodeXlWord (w : InstrWord) : Option Instr :=
  match (wordXO w).toNat with
  | 16 => some (.bclr (wordRest w) (w.extractLsb' 0 1))
  | 528 => some (.bcctr (wordRest w) (w.extractLsb' 0 1))
  | 18 => some (.rfid (wordRest w) (w.extractLsb' 0 1))
  | _ => none

/-- The row of a bare word, the no-op word's own row before `ori`'s (30_encoding.md R52, R53;
notes/assumptions/14.md), or none. -/
def rowOfWord (w : InstrWord) : Option Instr :=
  if w = nopWord then some .nop
  else match (wordPO w).toNat with
    | 24 => some (.ori (w.extractLsb' 0 26))
    | 31 =>
      match (wordF w).toNat with
      | 0x214 => some (.add (wordRest w))
      | 0x215 => some (.addRc (wordRest w))
      | _ => none
    | 18 => some (.branch (w.extractLsb' 0 26))
    | 16 => some (.bc (w.extractLsb' 0 26))
    | 19 => decodeXlWord w
    | _ => none

/-- A bare word. A word that no row names is read as the request whose number it is, which is `DECODE w`: op 0 and
b 0 (30_encoding.md R42; DESIGN CHOICE, notes/assumptions/13.md). No word is illegal (R56). -/
def decodeWord (w : InstrWord) : Instr :=
  match rowOfWord w with
  | some i => i
  | none => .decode w 0#6

/-- The instruction a port carries. -/
def decode : Presented → Instr
  | .request req => decodeRequest req
  | .word w => decodeWord w

/-- What bits numbered as spec/opcode_table.json numbers them present on a port: up to 32 bits a bare word (format
PPC32), more than that a request (format CMD41, 41 bits). -/
def presentBits (nbits w : Nat) : Except DecodeError Presented :=
  if nbits ≤ 32 then
    if w < 2 ^ 32 then .ok (.word (BitVec.ofNat 32 w)) else .error .wordTooWide
  else
    if w < 2 ^ 41 then .ok (.request (BitVec.ofNat 41 w)) else .error .requestTooWide

/-- The instruction the decoder reads from bits of the opcode table. -/
def decodeTableWord (nbits w : Nat) : Option Instr :=
  match presentBits nbits w with
  | .ok p => some (decode p)
  | .error _ => none

/-- The encoder: what presents an instruction on a port (30_encoding.md R42, R43, R52, R53). -/
def encode : Instr → Presented
  | .decode w b => .request (requestOf 0#3 b w)
  | .decodeJit w b => .request (requestOf 1#3 b w)
  | .decodeName w b => .request (requestOf 2#3 b w)
  | .isBranch a b => .request (requestOf 3#3 b a)
  | .index w b => .request (requestOf 4#3 b w)
  | .rotmask a b => .request (requestOf 5#3 b a)
  | .tableRead a b => .request (requestOf 6#3 b a)
  | .reserved a b => .request (requestOf 7#3 b a)
  | .nop => .word nopWord
  | .ori rest => .word (poWord 24#6 rest)
  | .add rest => .word (fWord 31#6 rest 0x214#11)
  | .addRc rest => .word (fWord 31#6 rest 0x215#11)
  | .branch rest => .word (poWord 18#6 rest)
  | .bc rest => .word (poWord 16#6 rest)
  | .bclr rest lk => .word (xlWord 19#6 rest 16#10 lk)
  | .bcctr rest lk => .word (xlWord 19#6 rest 528#10 lk)
  | .rfid rest lk => .word (xlWord 19#6 rest 18#10 lk)

end Sys2Proof
end

