-- ==== Sys2Proof/Machine/Memory.lean ====
section
/-!
DEFINITION. A lookup memory: one of the tables IT, JT, NT (10_state.md R22). It is entry-addressed, so a cell is an
index and the identifier its entry holds; there are no bytes in it (20_memory.md R30; notes/assumptions/7.md).
-/

namespace Sys2Proof.Machine

/-- The entries written since reset, in one canonical form (`Memory.wf`). An index that is not listed has NO value: the
spec leaves the tables unspecified until the sentinel fill has run (70_reset_and_hazards.md R110;
notes/assumptions/6.md). -/
structure Memory where
  cells : List (Nat × Nat)
deriving DecidableEq, Repr

/-- The canonical form: indices strictly rising, each one of the 2^17. No listed entry can equal what an unlisted one
reads as, which is no value. -/
abbrev Memory.wf (m : Memory) : Prop :=
  m.cells.Pairwise (fun c d => c.1 < d.1) ∧ ∀ c ∈ m.cells, c.1 < tableSize

/-- The memory in which nothing has been written: the whole table unspecified. -/
def Memory.empty : Memory := ⟨[]⟩

/-- The value listed for an address. -/
def lookupCell : List (Nat × Nat) → Nat → Option Nat
  | [], _ => none
  | c :: rest, a => if c.1 = a then some c.2 else lookupCell rest a

/-- The list with the value of an address set, in order. -/
def insertCell : List (Nat × Nat) → Nat → Nat → List (Nat × Nat)
  | [], a, v => [(a, v)]
  | c :: rest, a, v =>
    if a < c.1 then (a, v) :: c :: rest
    else if c.1 = a then (a, v) :: rest
    else c :: insertCell rest a v

/-- Read one whole entry (20_memory.md R32): none where nothing has written it since reset. -/
def Memory.read (m : Memory) (idx : DecodeIndex) : Option Nat := lookupCell m.cells idx.toNat

/-- `IT[i] <- v` (00_scope.md R14). -/
def Memory.write (m : Memory) (idx : DecodeIndex) (v : Nat) : Memory := ⟨insertCell m.cells idx.toNat v⟩

end Sys2Proof.Machine
end

