-- ==== Sys2Proof/Config.lean ====
section
/-!
DEFINITION. What an implementation fixes (00_scope.md R11, 43_table_set.md R77) and the values the spec leaves free.
The parameters are a plain structure, which the machine's state carries with it (notes/assumptions/3.md); the constants
without a body below stand for the values a concrete block was elaborated with, and nothing in Lean can evaluate them.
-/

namespace Sys2Proof

/-- An OpcodePattern (42_pattern_expander.md R67): its value, its magnitude, and its three pairs of identifiers
(interpreter, JIT and name; the plain one and the one for a set Rc bit). -/
structure Pattern where
  value : Nat
  magn : Nat
  ip : Nat
  irc : Nat
  jp : Nat
  jrc : Nat
  np : Nat
  nrc : Nat
deriving DecidableEq, Repr, Inhabited

/-- An opcode group (42_pattern_expander.md R66): primary opcode, width of the extended field, Rc offset, patterns. -/
structure Group where
  mainOp : Nat
  count : Nat
  sh : Nat
  entries : List Pattern
deriving DecidableEq, Repr, Inhabited

/-- `SATURATED_RC_POLICY` (42_pattern_expander.md R73; 92 D9). -/
inductive SaturatedRcPolicy where
  | requireEqual
  | selectByBit0
deriving DecidableEq, Repr, Inhabited

/-- `OVERLAP_POLICY` (42_pattern_expander.md R75; 92 D10). -/
inductive OverlapPolicy where
  | lastWins
  | refuse
deriving DecidableEq, Repr, Inhabited

/-- The OPEN parameters of 00_scope.md R11 other than `N_PORTS`: the three identifier widths, the opcode groups in
order, `NAME_STR` and the two policies. `NAME_STR` is a list of (name id, string) (notes/assumptions/19.md). -/
structure Params where
  hidW : Nat
  jidW : Nat
  nidW : Nat
  groups : List Group
  nameStr : List (Nat × String)
  saturatedRc : SaturatedRcPolicy
  overlap : OverlapPolicy
deriving DecidableEq, Repr, Inhabited

/-- The parameters a block is offered at elaboration: open, so a constant without a body (43_table_set.md R77,
91 N2; notes/assumptions/3.md). Whether a block can have them is checked by `Machine.bootParams`. -/
opaque Config.rawParams : Params

/-- How many request ports there are beyond the first: `N_PORTS` is open and at least 1 (00_scope.md R11, 92 D20;
notes/assumptions/5.md). -/
opaque Config.morePorts : Nat

/-- `N_PORTS`, the number of request ports (00_scope.md R11): at least 1. -/
def Config.nPorts : Nat := Config.morePorts + 1

/-- FREE VALUE: what entry `index` of table number `table` (0 IT, 1 JT, 2 NT) gives when nothing has written it
since reset. The spec leaves it any value, and no reader can observe it (10_state.md R28, 92 D24, 93 I13;
notes/assumptions/6.md). -/
opaque Config.unwrittenEntry : (table : Nat) → (index : Nat) → Nat

end Sys2Proof
end

