-- ==== Sys2Proof/Machine/Flags.lean ====
section
/-!
DEFINITION. Flags. The block holds no flags or condition codes (10_state.md R19): no command writes one. What it reads
of the Rc bit, only to choose between a pattern's two handlers, is the selection bit below (42_pattern_expander.md R72).
-/

namespace Sys2Proof.Machine

/-- `SEL(idx) = idx[6]`, which is the word's bit 0 (42_pattern_expander.md R72; 90 C4). -/
def selBit (idx : DecodeIndex) : Bool := idx.extractLsb' 6 1 == 1#1

end Sys2Proof.Machine
end

