-- ==== Sys2Proof/Machine/Expander.lean ====
section
/-!
DEFINITION. PatternExpander (42_pattern_expander.md): which indices a pattern covers, the enumeration of them, and which
handler of each pair an index gets.
-/

namespace Sys2Proof.Machine

/-- The saturated regime, `g.sh >= 11` (42_pattern_expander.md R66). -/
def saturated (g : Group) : Bool := decide (11 ≤ g.sh)

/-- `vw = g.count - e.magn`, the width of the pattern's own value (42_pattern_expander.md R68). -/
def valueWidth (g : Group) (e : Pattern) : Nat := g.count - e.magn

/-- `COVERS_N` (42_pattern_expander.md R68). -/
def coversNormal (g : Group) (e : Pattern) (idx : DecodeIndex) : Bool :=
  decide ((idxPO idx).toNat = g.mainOp) && decide (((idxF idx).toNat >>> g.sh) % 2 ^ valueWidth g e = e.value)

/-- `COVERS_S` (42_pattern_expander.md R71). -/
def coversSaturated (e : Pattern) (idx : DecodeIndex) : Bool := decide ((idxPO idx).toNat = e.value)

/-- `COVERS` (43_table_set.md R83). -/
def covers (g : Group) (e : Pattern) (idx : DecodeIndex) : Bool :=
  if saturated g then coversSaturated e idx else coversNormal g e idx

/-- How many indices the build writes for a pattern (42_pattern_expander.md R70, R71; 70_reset_and_hazards.md R111):
in the normal regime the free high and magnitude bits times the Rc-field placements. -/
def expansions (g : Group) (e : Pattern) : Nat :=
  if saturated g then 2 ^ 11 else 2 ^ (e.magn + 11 - g.sh - g.count) * 2 ^ g.sh

/-- The 11-bit F value number `n` of a normal pattern's enumeration (42_pattern_expander.md R70): `i` counts the free
high bits and magnitude bits, `j` the low bits. -/
def expandF (g : Group) (e : Pattern) (n : Nat) : Nat :=
  let i := n / 2 ^ g.sh
  let j := n % 2 ^ g.sh
  (((i <<< valueWidth g e) ||| e.value) <<< g.sh) ||| j

/-- Index number `n` of a pattern's enumeration, `(k << 6) | po` (42_pattern_expander.md R70, R71). -/
def expand (g : Group) (e : Pattern) (n : Nat) : DecodeIndex :=
  if saturated g then BitVec.ofNat 17 ((n <<< 6) ||| e.value)
  else BitVec.ofNat 17 ((expandF g e n <<< 6) ||| g.mainOp)

/-- One entry of each of the three tables: interpreter, JIT and name id (10_state.md R22). -/
structure Triple where
  interp : Nat
  jit : Nat
  name : Nat
deriving DecidableEq, Repr

/-- `PICK` (42_pattern_expander.md R72; R73 uses the same choice in the saturated regime). -/
def pick (e : Pattern) (idx : DecodeIndex) : Triple :=
  if selBit idx then ⟨e.irc, e.jrc, e.nrc⟩ else ⟨e.ip, e.jp, e.np⟩

end Sys2Proof.Machine
end

