-- ==== Sys2Proof/Machine/TableSet.lean ====
section
/-!
DEFINITION. TableSet construction (43_table_set.md): the reserved identifiers, the build order, the built tables in
closed form, the checks a configuration must pass, and the parameters a block is elaborated with.
-/

namespace Sys2Proof.Machine

/-! ## Reserved identifiers (10_state.md R23) -/

/-- Interpreter id `INVALID`. -/
def idInvalid : Nat := 0
/-- Interpreter id `UNIMPLEMENTED`: an ordinary value a pattern may select (30_encoding.md R57). -/
def idUnimplemented : Nat := 1
/-- Interpreter id `NOP`, of the fast path only (44_dispatcher.md R88). -/
def idNop : Nat := 2
/-- JIT id `JIT_INVALID`. -/
def idJitInvalid : Nat := 0
/-- JIT id `JIT_UNIMPLEMENTED`. -/
def idJitUnimplemented : Nat := 1
/-- Name id `NAME_INVALID`. -/
def idNameInvalid : Nat := 0

/-- The sentinels of the three tables (43_table_set.md R80). -/
def sentinels : Triple := ⟨idInvalid, idJitInvalid, idNameInvalid⟩

/-! ## The built tables in closed form (43_table_set.md R83) -/

/-- `ORDER(CFG)`: the patterns in build order, each with its group. -/
def order (p : Params) : List (Group × Pattern) := p.groups.flatMap fun g => g.entries.map fun e => (g, e)

/-- The patterns that cover an index, in build order. -/
def covering (p : Params) (idx : DecodeIndex) : List (Group × Pattern) :=
  (order p).filter fun ge => covers ge.1 ge.2 idx

/-- `LAST(CFG, i)`. -/
def lastCover (p : Params) (idx : DecodeIndex) : Option (Group × Pattern) := (covering p idx).getLast?

/-- `BUILT_IT(CFG)[i]`, `BUILT_JT(CFG)[i]` and `BUILT_NT(CFG)[i]`. -/
def built (p : Params) (idx : DecodeIndex) : Triple :=
  match lastCover p idx with
  | none => sentinels
  | some ge => pick ge.2 idx

/-! ## Names (10_state.md R24, 44_dispatcher.md R92) -/

/-- `NAME_STR(n)`, none outside its domain. -/
def nameString (p : Params) (n : Nat) : Option String := p.nameStr.lookup n

/-! ## The checks of a configuration (43_table_set.md R78) -/

/-- The widths of 00_scope.md R11: `HID_W` at least 2, `JID_W` and `NID_W` at least 1. Each is at most 64, since a
response holds a whole identifier in 64 bits (30_encoding.md R44; 92 D3; DEDUCED, notes/assumptions/4.md). -/
def checkWidths (p : Params) : Bool :=
  decide (2 ≤ p.hidW ∧ p.hidW ≤ 64) && decide (1 ≤ p.jidW ∧ p.jidW ≤ 64) && decide (1 ≤ p.nidW ∧ p.nidW ≤ 64)

/-- W1: the primary opcode of a normal group is 6 bits. -/
def checkW1 (p : Params) : Bool := p.groups.all fun g => saturated g || decide (g.mainOp < 64)

/-- W2: the field of a normal group fits the 11-bit F. -/
def checkW2 (p : Params) : Bool := p.groups.all fun g => saturated g || decide (g.count + g.sh ≤ 11)

/-- W3: magnitude bits are bits of the field. -/
def checkW3 (p : Params) : Bool :=
  p.groups.all fun g => saturated g || g.entries.all fun e => decide (e.magn ≤ g.count)

/-- W4: the value fits below the magnitude bits. -/
def checkW4 (p : Params) : Bool :=
  p.groups.all fun g => saturated g || g.entries.all fun e => decide (e.value < 2 ^ valueWidth g e)

/-- W5: the value of a saturated pattern is a primary opcode, and its magnitude is 0. -/
def checkW5 (p : Params) : Bool :=
  p.groups.all fun g => !saturated g || g.entries.all fun e => decide (e.value < 64) && decide (e.magn = 0)

/-- The two members of each pair of a pattern are equal (42_pattern_expander.md R73). -/
def pairsEqual (e : Pattern) : Bool := decide (e.ip = e.irc) && decide (e.jp = e.jrc) && decide (e.np = e.nrc)

/-- W6: under `require_equal` the pairs of a saturated pattern are equal. -/
def checkW6 (p : Params) : Bool :=
  match p.saturatedRc with
  | .requireEqual => p.groups.all fun g => !saturated g || g.entries.all pairsEqual
  | .selectByBit0 => true

/-- An interpreter id a pattern may hold: it fits `HID_W` bits and is not `NOP` (W7). -/
def interpIdOk (p : Params) (n : Nat) : Bool := decide (n < 2 ^ p.hidW) && decide (n ≠ idNop)

/-- A JIT id a pattern may hold (W7). -/
def jitIdOk (p : Params) (n : Nat) : Bool := decide (n < 2 ^ p.jidW)

/-- A name id a pattern may hold: it fits `NID_W` bits and is in the domain of `NAME_STR` (W7). -/
def nameIdOk (p : Params) (n : Nat) : Bool := decide (n < 2 ^ p.nidW) && (nameString p n).isSome

/-- The identifiers of a pattern (W7). -/
def patternIdsOk (p : Params) (e : Pattern) : Bool :=
  interpIdOk p e.ip && interpIdOk p e.irc && jitIdOk p e.jp && jitIdOk p e.jrc && nameIdOk p e.np && nameIdOk p e.nrc

/-- W7: every identifier fits its table, and no pattern names `NOP`. -/
def checkW7 (p : Params) : Bool := p.groups.all fun g => g.entries.all (patternIdsOk p)

/-- W8: under `refuse` no index is covered by two patterns. -/
def checkW8 (p : Params) : Bool :=
  match p.overlap with
  | .lastWins => true
  | .refuse => (List.range tableSize).all fun i => decide ((covering p (BitVec.ofNat 17 i)).length ≤ 1)

/-- W9: `NAME_STR(NAME_INVALID)` is `invalid` and every string is non-empty. -/
def checkW9 (p : Params) : Bool :=
  decide (nameString p idNameInvalid = some "invalid") && p.nameStr.all fun ns => decide (ns.2 ≠ "")

/-- A well-formed configuration: the widths and W1 to W9 (43_table_set.md R78). -/
def paramsWf (p : Params) : Bool :=
  checkWidths p && checkW1 p && checkW2 p && checkW3 p && checkW4 p && checkW5 p && checkW6 p && checkW7 p &&
    checkW8 p && checkW9 p

/-- The ONLY-where half of "exactly where" (43_table_set.md R85): no id but `NAME_INVALID` has the name `invalid`. W1 to W9
do not ask for it, and R85 states it of every block, so an elaborated configuration has it (DEDUCED,
notes/assumptions/21.md). -/
def checkNamesApart (p : Params) : Bool :=
  p.nameStr.all fun ns => decide (nameString p ns.1 = some "invalid" → ns.1 = idNameInvalid)

/-- A configuration that a block is elaborated with: well-formed (R78), and with names as R85 states them. -/
def elaborates (p : Params) : Bool := paramsWf p && checkNamesApart p

/-! ## Conformance to the xenon data (43_table_set.md R79) -/

/-- W10: the name of the no-op word's entry is `ori`. -/
def checkW10 (p : Params) : Bool := decide (nameString p (built p 0x00018#17).name = some "ori")

/-- W11: the entries of `add` and `add.` come from one pattern at PO 31, value 0x10A, and differ. -/
def checkW11 (p : Params) : Bool :=
  match lastCover p 0x0851F#17, lastCover p 0x0855F#17 with
  | some x, some y =>
    decide (x = y) && !saturated x.1 && decide (x.1.mainOp = 31) && decide (x.2.value = 0x10A) &&
      decide ((built p 0x0851F#17).interp ≠ (built p 0x0855F#17).interp)
  | _, _ => false

/-- W12: the handler registry defines every interpreter id the tables hold, but `INVALID`. The registry is the host's
(70_reset_and_hazards.md R112 (2)), so it is an argument (notes/assumptions/20.md). -/
def checkW12 (registry : List Nat) (p : Params) : Bool :=
  (List.range tableSize).all fun i =>
    let h := (built p (BitVec.ofNat 17 i)).interp
    decide (h = idInvalid) || registry.contains h

/-! ## The parameters of this block -/

/-- The configuration without a group (43_table_set.md R81, corner case). -/
def emptyParams : Params :=
  { hidW := 2, jidW := 1, nidW := 1, groups := [], nameStr := [(0, "invalid")],
    saturatedRc := .requireEqual, overlap := .lastWins }

/-- The parameters a block is elaborated with: those offered, if they are well-formed and named as R85 says. "An ill-formed configuration is
refused before reset: it defines no block, and a model does not elaborate it" (43_table_set.md R78); the empty
configuration stands there, so that `bootParams` is any such configuration and no other
(notes/assumptions/3.md). -/
def bootParams : Params := if elaborates Config.rawParams then Config.rawParams else emptyParams

end Sys2Proof.Machine
end

