-- ==== Sys2Proof/Machine/State.lean ====
section
/-!
DEFINITION. The state of the block (10_state.md), as plain data; the reasons a step can stop; and the state right after
reset (10_state.md R28, 70_reset_and_hazards.md R110).
-/

namespace Sys2Proof.Machine

/-- `PHASE` (10_state.md R20). -/
inductive Phase where
  | building
  | ready
deriving DecidableEq, Repr

/-- The build sequencer's private position (10_state.md R27): the index the sentinel fill writes next, or the place in
`ORDER(CFG)` of the pattern being written (which group, which entry) and how many of its indices are done. -/
inductive BuildPos where
  | sentinelFill (next : Nat)
  | fill (entry done : Nat)
deriving DecidableEq, Repr

/-- What the other units of the block say of a bare instruction word (MODEL's own, notes/assumptions/12.md): its index
(41_indexer.md R63), the branch verdict on that index (45_branch_classifier.md R93), and its JIT and name ids
(44_dispatcher.md R89, R90). -/
structure WordMarks where
  index : DecodeIndex
  branch : Bool
  jit : Data
  name : Data
deriving DecidableEq, Repr

/-- A request port (60_exceptions.md R107): at most one pending request, and the response last returned. -/
structure Port where
  pending : Option Presented
  response : Option Data
  marks : Option WordMarks
deriving DecidableEq, Repr

/-- A port with no command pending (10_state.md R28). -/
def Port.idle : Port := { pending := none, response := none, marks := none }

/-- A move of one of the agents (00_scope.md R10): a requester puts a request on a port; the block attends to a port;
the build sequencer works; the host asserts reset (70_reset_and_hazards.md R113). -/
inductive Move where
  | issue (port : Nat) (p : Presented)
  | serve (port : Nat)
  | build
  | reset
deriving DecidableEq, Repr

/-- The state. `params` is carried, never changed (10_state.md R25; notes/assumptions/3.md); `active` and `agenda` are
the model's own: the port the block attends to, and the order in which the agents move next (notes/assumptions/1.md). -/
structure State where
  params : Params
  phase : Phase
  it : Memory
  jt : Memory
  nt : Memory
  pos : BuildPos
  ports : List Port
  refusalMark : Bool
  active : Nat
  agenda : List Move
deriving DecidableEq, Repr

/-- The faults: there are none. "No behaviour of the block is treated as `fault`" (93_implementation_defined.md); the
block raises no exception (60_exceptions.md R96). -/
inductive Fault where
deriving DecidableEq, Repr

/-- The refusals of the MODEL. A refusal of the spec (60_exceptions.md R98) is a next state in which the refusal mark is
set, not one of these. -/
inductive Refusal where
  /-- An instruction without a meaning yet: raised by an arm of `exec` that is rejected by name. No arm is. Safe: the
  model stops. -/
  | notModelled (mnemonic : String)
deriving DecidableEq, Repr

/-- The state after reset of a block with the given parameters and number of ports (10_state.md R28,
70_reset_and_hazards.md R110): `PHASE` is BUILDING, the tables are unspecified (nothing listed,
notes/assumptions/6.md), the build is at the start of the sentinel fill, no request is pending, and the refusal mark
is clear (95_test_vectors.md P5). -/
def State.resetWith (p : Params) (nPorts : Nat) : State where
  params := p
  phase := .building
  it := Memory.empty
  jt := Memory.empty
  nt := Memory.empty
  pos := .sentinelFill 0
  ports := List.replicate nPorts Port.idle
  refusalMark := false
  active := 0
  agenda := []

/-- The machine right after reset, with the parameters it was elaborated with. -/
def State.reset : State := State.resetWith bootParams Config.nPorts

end Sys2Proof.Machine
end

