-- ==== Sys2Proof/Machine/Ops.lean ====
section
/-!
DEFINITION. The named operations over the state: reads of a table entry, the writes of the build sequencer, and the
three outcomes of a request (60_exceptions.md R97): a response, a hold, a refusal. The block has no exception entry and
no return from one (R96, R101, R102); the refusal is the one shared operation that stands in their place.
-/

namespace Sys2Proof.Machine

/-- The status output `ready` (10_state.md R20). -/
def State.ready (s : State) : Bool := decide (s.phase = .ready)

/-- The bit that `PHASE` is (10_state.md R20). -/
def phaseBit : Phase → BitVec 1
  | .building => 0#1
  | .ready => 1#1

/-- The identifier width of a table (10_state.md R22). -/
def tableWidth (p : Params) : TableSel → Nat
  | .it => p.hidW
  | .jt => p.jidW
  | .nt => p.nidW

/-- The memory of a table (10_state.md R22). -/
def State.table (s : State) : TableSel → Memory
  | .it => s.it
  | .jt => s.jt
  | .nt => s.nt

/-- `IT[i]`, `JT[i]`, `NT[i]` (00_scope.md R14). An entry that nothing has written gives a FREE VALUE of the table's
width (notes/assumptions/6.md); no reader can observe it (10_state.md R27). -/
def State.entry (s : State) (sel : TableSel) (idx : DecodeIndex) : Nat :=
  match (s.table sel).read idx with
  | some v => v
  | none => Config.unwrittenEntry (tableCode sel) idx.toNat % 2 ^ tableWidth s.params sel

/-- A table entry as a response, zero-extended to 64 bits (30_encoding.md R44). -/
def State.entryData (s : State) (sel : TableSel) (idx : DecodeIndex) : Data := BitVec.ofNat 64 (s.entry sel idx)

/-- One write of the build sequencer: the same entry of the three tables (43_table_set.md R81, one combined pass). -/
def State.writeEntry (s : State) (idx : DecodeIndex) (t : Triple) : State :=
  { s with it := s.it.write idx t.interp, jt := s.jt.write idx t.jit, nt := s.nt.write idx t.name }

/-- The port the block attends to takes a new content. -/
def State.setPort (s : State) (q : Port) : State := { s with ports := s.ports.set s.active q }

/-- `respond(v)` (00_scope.md R14): the request completes and returns its data. -/
def State.respond (s : State) (v : Data) : State :=
  s.setPort { pending := none, response := some v, marks := none }

/-- The answer to a bare word: `DECODE`'s data, and what the other units say of the word (notes/assumptions/12.md). -/
def State.respondWord (s : State) (v : Data) (m : WordMarks) : State :=
  s.setPort { pending := none, response := some v, marks := some m }

/-- `refuse` (60_exceptions.md R98): no response, and the refusal mark is set for good. The refused request leaves its
port (notes/assumptions/9.md). -/
def State.refuse (s : State) : State :=
  { s.setPort { pending := none, response := none, marks := none } with refusalMark := true }

/-- `hold` (00_scope.md R14): the request is not answered in this step and stays pending. -/
def State.hold (s : State) : State := s

/-- A command that reads a table (44_dispatcher.md R87): held while `PHASE` is BUILDING, else answered with `v`. -/
def State.respondWhenReady (s : State) (v : Data) : State :=
  match s.phase with
  | .building => s.hold
  | .ready => s.respond v

end Sys2Proof.Machine
end

