-- ==== Sys2Proof/Machine/Build.lean ====
section
/-!
DEFINITION. The build sequencer (43_table_set.md R80 to R82, 42_pattern_expander.md R74, 70_reset_and_hazards.md R111):
one write of the sentinel fill or of one pattern a move, in the order of 43_table_set.md R81, and then publication.
-/

namespace Sys2Proof.Machine

/-- The position after index `i` of the sentinel fill (43_table_set.md R80, R81). -/
def afterSentinel (i : Nat) : BuildPos :=
  if i + 1 < tableSize then .sentinelFill (i + 1) else .fill 0 0

/-- The position after index `k` of a pattern that stands at place `n` of `ORDER(CFG)` (42_pattern_expander.md R74). -/
def afterWrite (g : Group) (e : Pattern) (n k : Nat) : BuildPos :=
  if k + 1 < expansions g e then .fill n (k + 1) else .fill (n + 1) 0

/-- One move of the build sequencer. It writes one entry of the three tables, or, past the last pattern, publishes them
(`PHASE <- READY`, 43_table_set.md R82). Once READY there is no rebuild (R86). -/
def State.buildMove (s : State) : State :=
  match s.phase with
  | .ready => s
  | .building =>
    match s.pos with
    | .sentinelFill i => { s.writeEntry (BitVec.ofNat 17 i) sentinels with pos := afterSentinel i }
    | .fill n k =>
      match (order s.params)[n]? with
      | none => { s with phase := .ready }
      | some (g, e) =>
        { s.writeEntry (expand g e k) (pick e (expand g e k)) with pos := afterWrite g e n k }

/-- The host asserts reset (70_reset_and_hazards.md R110, R113): the build starts again, no request is pending, and the
tables are unspecified. The parameters stay; the refusal mark is "never cleared" (60_exceptions.md R98;
notes/assumptions/10.md). -/
def State.hostReset (s : State) : State :=
  { s with
    phase := .building
    it := Memory.empty
    jt := Memory.empty
    nt := Memory.empty
    pos := .sentinelFill 0
    ports := s.ports.map fun _ => Port.idle }

end Sys2Proof.Machine
end

