-- ==== Sys2Proof/Machine/BranchClassifier.lean ====
section
/-!
DEFINITION. BranchClassifier (45_branch_classifier.md): the fixed verdict on an index, and the command IS_BRANCH.
-/

namespace Sys2Proof.Machine

/-- `BRANCH(idx)` (45_branch_classifier.md R93): fixed logic, no table and no configuration is read (R95). The opcode
numbers are the spec's own general knowledge (92 D16; notes/assumptions/17.md). -/
def isBranchIndex (idx : DecodeIndex) : Bool :=
  idxPO idx == 18#6 || idxPO idx == 16#6 ||
    (idxPO idx == 19#6 && (idxXO idx == 16#10 || idxXO idx == 528#10 || idxXO idx == 18#10))

/-- A verdict as a response: 1 for true, 0 for false (30_encoding.md R44). -/
def verdictData (v : Bool) : Data := if v then 1#64 else 0#64

/-- `IS_BRANCH idx` (45_branch_classifier.md R93): answered in any phase, refused if `a[31:17]` is not 0
(30_encoding.md R46 (a)). -/
def execIsBranch (a : OperandA) (_b : OperandB) (s : State) : Host.Outcome State Fault Refusal :=
  if indexInRange a then .next (s.respond (verdictData (isBranchIndex (indexOperand a)))) else .next s.refuse

end Sys2Proof.Machine
end

