-- ==== Sys2Proof/Machine/CommandPort.lean ====
section
/-!
DEFINITION. The command port's reserved code (30_encoding.md R47).
-/

namespace Sys2Proof.Machine

/-- op 7: "a request with it has no meaning and is refused" (30_encoding.md R47; 60_exceptions.md R98, R100 (1)). -/
def execReserved (_a : OperandA) (_b : OperandB) (s : State) : Host.Outcome State Fault Refusal :=
  .next s.refuse

end Sys2Proof.Machine
end

