-- ==== Sys2Proof/Machine/Dispatcher.lean ====
section
/-!
DEFINITION. The dispatcher and the raw table read (44_dispatcher.md): DECODE, DECODE_JIT, DECODE_NAME, TABLE_READ.
-/

namespace Sys2Proof.Machine

/-- What DECODE returns for a word (44_dispatcher.md R88): `NOP` for the no-op literal, without a table read; the
interpreter entry of the word's index for every other word. -/
def State.decodeData (s : State) (w : InstrWord) : Data :=
  if w = nopWord then BitVec.ofNat 64 idNop else s.entryData .it (indexOf w)

/-- What DECODE_JIT returns for a word (44_dispatcher.md R89): no fast path. -/
def State.jitData (s : State) (w : InstrWord) : Data := s.entryData .jt (indexOf w)

/-- What DECODE_NAME returns for a word (44_dispatcher.md R90): no fast path. -/
def State.nameData (s : State) (w : InstrWord) : Data := s.entryData .nt (indexOf w)

/-- `DECODE w` (44_dispatcher.md R88). -/
def execDecode (w : OperandA) (_b : OperandB) (s : State) : Host.Outcome State Fault Refusal :=
  .next (s.respondWhenReady (s.decodeData w))

/-- `DECODE_JIT w` (44_dispatcher.md R89). -/
def execDecodeJit (w : OperandA) (_b : OperandB) (s : State) : Host.Outcome State Fault Refusal :=
  .next (s.respondWhenReady (s.jitData w))

/-- `DECODE_NAME w` (44_dispatcher.md R90). -/
def execDecodeName (w : OperandA) (_b : OperandB) (s : State) : Host.Outcome State Fault Refusal :=
  .next (s.respondWhenReady (s.nameData w))

/-- `TABLE_READ idx, sel` (44_dispatcher.md R91). The range checks come before the hold (60_exceptions.md R100). -/
def execTableRead (a : OperandA) (b : OperandB) (s : State) : Host.Outcome State Fault Refusal :=
  if indexInRange a then
    match selectOperand b with
    | some sel => .next (s.respondWhenReady (s.entryData sel (indexOperand a)))
    | none => .next s.refuse
  else .next s.refuse

end Sys2Proof.Machine
end

