-- ==== Sys2Proof/Machine/Indexer.lean ====
section
/-!
DEFINITION. OpcodeIndexer (41_indexer.md): the command INDEX. The index of a word is `indexOf` (Operands.lean).
-/

namespace Sys2Proof.Machine

/-- The word of 41_indexer.md R65 that has a given index and given bits 25:11. -/
def wordOfIndex (idx : DecodeIndex) (rest : BitVec 15) : InstrWord :=
  ((idxPO idx).setWidth 32 <<< 26) ||| (rest.setWidth 32 <<< 11) ||| (idxF idx).setWidth 32

/-- `INDEX w` (41_indexer.md R63): answered in any phase, whatever `b` is (30_encoding.md R45). -/
def execIndex (w : OperandA) (_b : OperandB) (s : State) : Host.Outcome State Fault Refusal :=
  .next (s.respond ((indexOf w).setWidth 64))

end Sys2Proof.Machine
end

