-- ==== Sys2Proof/Machine/RotateMask.lean ====
section
/-!
DEFINITION. RotateMask (40_rotate_mask.md): the mask function and the command ROTMASK.
-/

namespace Sys2Proof.Machine

/-- `rotr_64(x, n)` for 0 <= n < 64 (00_scope.md R14). -/
def rotr64 (x : Data) (n : Nat) : Data := if n = 0 then x else (x >>> n) ||| (x <<< (64 - n))

/-- `MASK(mb, me)` (40_rotate_mask.md R61), the bit-exact formula. -/
def rotateMask (mb me : BitVec 6) : Data :=
  let d := me - mb
  let s := ~~~d
  let m0 := 0xFFFFFFFFFFFFFFFF#64 <<< s.toNat
  rotr64 m0 mb.toNat

/-- `ROTMASK mb, me` (40_rotate_mask.md R61): answered in any phase (44_dispatcher.md R87), refused if `a[31:6]` is not 0
(30_encoding.md R46 (d)). -/
def execRotmask (a : OperandA) (b : OperandB) (s : State) : Host.Outcome State Fault Refusal :=
  if mbInRange a then .next (s.respond (rotateMask (mbOperand a) b)) else .next s.refuse

end Sys2Proof.Machine
end

