-- ==== Sys2Proof/Machine/Words.lean ====
section
/-!
DEFINITION. The instruction words the block's own logic or the source fixes (30_encoding.md R52, R53). A word reaches
the spec's block as an operand; presented alone on a port it is answered as DECODE answers it, and the answer also
carries what the other units say of the word: its index, the branch verdict on that index, its JIT and name ids
(DESIGN CHOICE, notes/assumptions/12.md).
-/

namespace Sys2Proof.Machine

/-- What the units other than the interpreter table say of a word. -/
def State.marksOf (s : State) (w : InstrWord) : WordMarks :=
  { index := indexOf w, branch := isBranchIndex (indexOf w), jit := s.jitData w, name := s.nameData w }

/-- The answer to a bare word, held while `PHASE` is BUILDING because it reads the tables (44_dispatcher.md R87). -/
def State.answerWord (s : State) (w : InstrWord) : State :=
  match s.phase with
  | .building => s.hold
  | .ready => s.respondWord (s.decodeData w) (s.marksOf w)

/-- `nop`: DECODE's fast path (44_dispatcher.md R88); JIT and name ids from the table (R89, R90). -/
def execNop (s : State) : Host.Outcome State Fault Refusal := .next (s.answerWord nopWord)

/-- `ori`: handlers from `CFG` (30_encoding.md R53). -/
def execOri (rest : BitVec 26) (s : State) : Host.Outcome State Fault Refusal :=
  .next (s.answerWord (poWord 24#6 rest))

/-- `add`: the plain handlers of the PO 31 / 0x10A pattern (30_encoding.md R53). -/
def execAdd (rest : BitVec 15) (s : State) : Host.Outcome State Fault Refusal :=
  .next (s.answerWord (fWord 31#6 rest 0x214#11))

/-- `add.`: the Rc handlers of the PO 31 / 0x10A pattern (30_encoding.md R53). -/
def execAddRc (rest : BitVec 15) (s : State) : Host.Outcome State Fault Refusal :=
  .next (s.answerWord (fWord 31#6 rest 0x215#11))

/-- `b`, `ba`, `bl`, `bla` (30_encoding.md R52; 45_branch_classifier.md R93). -/
def execBranch (rest : BitVec 26) (s : State) : Host.Outcome State Fault Refusal :=
  .next (s.answerWord (poWord 18#6 rest))

/-- `bc` and its forms (30_encoding.md R52; 45_branch_classifier.md R93). -/
def execBc (rest : BitVec 26) (s : State) : Host.Outcome State Fault Refusal :=
  .next (s.answerWord (poWord 16#6 rest))

/-- `bclr`, `bclrl` (30_encoding.md R52; 45_branch_classifier.md R93). -/
def execBclr (rest : BitVec 15) (lk : BitVec 1) (s : State) : Host.Outcome State Fault Refusal :=
  .next (s.answerWord (xlWord 19#6 rest 16#10 lk))

/-- `bcctr`, `bcctrl` (30_encoding.md R52; 45_branch_classifier.md R93). -/
def execBcctr (rest : BitVec 15) (lk : BitVec 1) (s : State) : Host.Outcome State Fault Refusal :=
  .next (s.answerWord (xlWord 19#6 rest 528#10 lk))

/-- `rfid` (30_encoding.md R52; 45_branch_classifier.md R93, 92 D16). -/
def execRfid (rest : BitVec 15) (lk : BitVec 1) (s : State) : Host.Outcome State Fault Refusal :=
  .next (s.answerWord (xlWord 19#6 rest 18#10 lk))

end Sys2Proof.Machine
end

