-- ==== Sys2Proof/Machine/Dispatch.lean ====
section
/-!
DEFINITION. One arm per instruction: the meaning of each, for the port the block attends to.
-/

namespace Sys2Proof.Machine

def exec (i : Instr) (s : State) : Host.Outcome State Fault Refusal :=
  match i with
  | .decode w b => Sys2Proof.Machine.execDecode w b s
  | .decodeJit w b => Sys2Proof.Machine.execDecodeJit w b s
  | .decodeName w b => Sys2Proof.Machine.execDecodeName w b s
  | .isBranch a b => Sys2Proof.Machine.execIsBranch a b s
  | .index w b => Sys2Proof.Machine.execIndex w b s
  | .rotmask a b => Sys2Proof.Machine.execRotmask a b s
  | .tableRead a b => Sys2Proof.Machine.execTableRead a b s
  | .reserved a b => Sys2Proof.Machine.execReserved a b s
  | .nop => Sys2Proof.Machine.execNop s
  | .ori rest => Sys2Proof.Machine.execOri rest s
  | .add rest => Sys2Proof.Machine.execAdd rest s
  | .addRc rest => Sys2Proof.Machine.execAddRc rest s
  | .branch rest => Sys2Proof.Machine.execBranch rest s
  | .bc rest => Sys2Proof.Machine.execBc rest s
  | .bclr rest lk => Sys2Proof.Machine.execBclr rest lk s
  | .bcctr rest lk => Sys2Proof.Machine.execBcctr rest lk s
  | .rfid rest lk => Sys2Proof.Machine.execRfid rest lk s

end Sys2Proof.Machine
end

