-- ==== Sys2Proof/Machine/Moves.lean ====
section
/-!
DEFINITION. The moves of the agents (00_scope.md R10), and which move is made when nothing outside says
(70_reset_and_hazards.md R111, R121; notes/assumptions/1.md, 2.md).
-/

namespace Sys2Proof.Machine

/-- The instruction that is held while `PHASE` is BUILDING: a table-reading command that passes its range checks
(44_dispatcher.md R87, 60_exceptions.md R100), or a bare word (notes/assumptions/12.md). -/
def heldWhileBuilding : Instr → Bool
  | .decode _ _ => true
  | .decodeJit _ _ => true
  | .decodeName _ _ => true
  | .isBranch _ _ => false
  | .index _ _ => false
  | .rotmask _ _ => false
  | .tableRead a b => (Instr.tableRead a b).inRange
  | .reserved _ _ => false
  | .nop => true
  | .ori _ => true
  | .add _ => true
  | .addRc _ => true
  | .branch _ => true
  | .bc _ => true
  | .bclr _ _ => true
  | .bcctr _ _ => true
  | .rfid _ _ => true

/-- The port carries a request that the block would not hold now (70_reset_and_hazards.md R121). -/
def State.answerable (s : State) (q : Port) : Bool :=
  match q.pending with
  | none => false
  | some p => s.ready || !heldWhileBuilding (decode p)

/-- The lowest port with a request that would not be held. Which port is first is open: "no priority among ports is
needed" (60_exceptions.md R100; notes/assumptions/2.md). -/
def State.nextPort (s : State) : Option Nat := s.ports.findIdx? s.answerable

/-- The move made when the agenda is empty: a request that can be answered is, else the build goes on, else the block
rests. So the build's steps are scheduled fairly (70_reset_and_hazards.md R111; notes/assumptions/2.md). -/
def State.defaultMove (s : State) : Option Move :=
  match s.nextPort with
  | some n => some (.serve n)
  | none =>
    match s.phase with
    | .building => some .build
    | .ready => none

/-- A requester puts a request on a port that carries none (30_encoding.md R42, 60_exceptions.md R107). On a port that
is busy or not there it is no move of the spec and changes nothing (notes/assumptions/16.md). -/
def State.issue (s : State) (n : Nat) (p : Presented) : State :=
  { s with ports := s.ports.modify n fun q =>
      match q.pending with
      | none => { pending := some p, response := none, marks := none }
      | some _ => q }

/-- The request that port `n` carries. -/
def State.pendingAt (s : State) (n : Nat) : Option Presented :=
  match s.ports[n]? with
  | none => none
  | some q => q.pending

/-- The block attends to a port: it takes the request the port carries and does what the instruction says. A port
without a request leaves it as it is. -/
def State.serve (s : State) (n : Nat) : Host.Outcome State Fault Refusal :=
  match s.pendingAt n with
  | none => .next s
  | some p => exec (decode p) { s with active := n }

/-- One move. -/
def State.perform (s : State) : Move → Host.Outcome State Fault Refusal
  | .issue n p => .next (s.issue n p)
  | .serve n => s.serve n
  | .build => .next s.buildMove
  | .reset => .next s.hostReset

/-- The port that `withFetchWord` puts its instruction on. -/
def fetchPort : Nat := 0

/-- The state with an instruction's bits on the fetch port and that port next to be served. Bits that are no
presentation leave the state as it is. A request that the port still carried (one that is held) is OVERWRITTEN, and so
never answered; the host's placement stands outside the block, whose own arrival of a request on a busy port changes
nothing (`State.issue`). DESIGN CHOICE, unsafe: notes/assumptions/15.md. -/
def State.place (s : State) (nbits w : Nat) : State :=
  match presentBits nbits w with
  | .error _ => s
  | .ok p =>
    { s with
      ports := s.ports.set fetchPort { pending := some p, response := none, marks := none }
      agenda := .serve fetchPort :: s.agenda }

end Sys2Proof.Machine
end

