-- ==== Sys2Proof/Machine/Step.lean ====
section
/-!
DEFINITION. One step: the first move of the agenda, or, where the agenda is empty, the default move.
-/

namespace Sys2Proof.Machine

/-- One step of the block. With nothing to do it rests. -/
def step (s : State) : Host.Outcome State Fault Refusal :=
  match s.agenda with
  | m :: rest => { s with agenda := rest }.perform m
  | [] =>
    match s.defaultMove with
    | some m => s.perform m
    | none => .next s

/-- `s` with an instruction of the opcode table where the next step takes it: pending on the first port, with that port
next to be served (notes/assumptions/15.md). -/
def State.withFetchWord (s : State) (nbits w : Nat) : State := s.place nbits w

end Sys2Proof.Machine
end

