-- ==== Sys2Proof/Safety.lean ====
section
/-!
DEFINITION. What counts as a safe state, in the terms claims use: the tables hold exactly what the build has written so
far (10_state.md R27), and the built tables once READY (20_memory.md R37, 43_table_set.md R83).
-/

namespace Sys2Proof.Machine

/-- The first `k` writes of the build for one pattern: each index with what it is given (42_pattern_expander.md R74). -/
def patternWrites (g : Group) (e : Pattern) (k : Nat) : List (DecodeIndex × Triple) :=
  (List.range k).map fun j => (expand g e j, pick e (expand g e j))

/-- The writes of the build, after the sentinel fill, for the first `n` patterns of `ORDER(CFG)` and the first `k`
indices of the next (43_table_set.md R81). -/
def writesUpTo (p : Params) (n k : Nat) : List (DecodeIndex × Triple) :=
  ((order p).take n).flatMap (fun ge => patternWrites ge.1 ge.2 (expansions ge.1 ge.2)) ++
    match (order p)[n]? with
    | none => []
    | some ge => patternWrites ge.1 ge.2 k

/-- What an index holds after the sentinel fill and then some writes: its last write, or the sentinels. -/
def valueAfter (ws : List (DecodeIndex × Triple)) (idx : DecodeIndex) : Triple :=
  match (ws.filter fun w => decide (w.1 = idx)).getLast? with
  | none => sentinels
  | some w => w.2

/-- The three tables hold a given entry at an index. -/
def State.holds (s : State) (idx : DecodeIndex) (t : Triple) : Prop :=
  s.it.read idx = some t.interp ∧ s.jt.read idx = some t.jit ∧ s.nt.read idx = some t.name

/-- How many writes the build makes for all patterns (70_reset_and_hazards.md R111). -/
def fillWrites (p : Params) : Nat := ((order p).map fun ge => expansions ge.1 ge.2).sum

/-- How many moves of the build sequencer lead from reset to READY: the sentinel fill, the patterns' writes and the
publication (43_table_set.md R81, R82; 70_reset_and_hazards.md R111). -/
def buildMoves (p : Params) : Nat := tableSize + fillWrites p + 1

/-- How many moves of the build sequencer are left before READY (70_reset_and_hazards.md R111; one write a move,
notes/assumptions/8.md). -/
def State.buildMovesLeft (s : State) : Nat :=
  match s.phase with
  | .ready => 0
  | .building =>
    match s.pos with
    | .sentinelFill i => tableSize - i + fillWrites s.params + 1
    | .fill n k => (((order s.params).drop n).map fun ge => expansions ge.1 ge.2).sum - k + 1

/-- The tables hold what the build has written at its position, and once READY the built tables
(10_state.md R27, R28; 43_table_set.md R83). -/
def State.tablesAsBuilt (s : State) : Prop :=
  match s.phase with
  | .ready => ∀ idx, s.holds idx (built s.params idx)
  | .building =>
    match s.pos with
    | .sentinelFill i => i < tableSize ∧ ∀ idx : DecodeIndex, idx.toNat < i → s.holds idx sentinels
    | .fill n k =>
      n ≤ (order s.params).length ∧
      (match (order s.params)[n]? with
        | none => k = 0
        | some ge => k < expansions ge.1 ge.2) ∧
      ∀ idx, s.holds idx (valueAfter (writesUpTo s.params n k) idx)

/-- The tables are in canonical form. -/
def State.memoriesWf (s : State) : Prop := s.it.wf ∧ s.jt.wf ∧ s.nt.wf

/-- The invariant of the block: a well-formed configuration, tables in canonical form, and in them what the build has
written so far. -/
structure State.Inv (s : State) : Prop where
  params : paramsWf s.params = true
  memories : s.memoriesWf
  tables : s.tablesAsBuilt

/-! ## The terms the statements are written in -/

/-- The request of the active port is answered with `v`, and nothing else changes (60_exceptions.md R97 (1)). -/
def State.answered (s : State) (v : Data) : State :=
  { s with ports := s.ports.set s.active { pending := none, response := some v, marks := none } }

/-- The bare word of the active port is answered (notes/assumptions/12.md), and nothing else changes. -/
def State.answeredWord (s : State) (v : Data) (m : WordMarks) : State :=
  { s with ports := s.ports.set s.active { pending := none, response := some v, marks := some m } }

/-- The request of the active port is refused: no response, the refusal mark set, and nothing else changes but that port
(60_exceptions.md R98). What becomes of the request on its port the rule does not say, and this does not either. -/
def refuses (i : Instr) (s : State) : Prop :=
  ∃ q : Port, q.response = none ∧
    exec i s = .next { s with ports := s.ports.set s.active q, refusalMark := true }

/-- The request of the active port gets no response and leaves the port (notes/assumptions/9.md), the refusal mark is
set, and nothing else changes (60_exceptions.md R97 (3), R98). -/
def State.turnedAway (s : State) : State :=
  { s with
    ports := s.ports.set s.active { pending := none, response := none, marks := none }
    refusalMark := true }

/-- The instruction of a bare word is answered from the entries of the index `idx`: the interpreter entry, and with it
the index, the branch verdict and the two other entries. -/
def answersWord (i : Instr) (idx : DecodeIndex) (branch : Bool) (s : State) : Prop :=
  ∀ h j n, s.it.read idx = some h → s.jt.read idx = some j → s.nt.read idx = some n →
    exec i s = .next (s.answeredWord (BitVec.ofNat 64 h)
      { index := idx, branch := branch, jit := BitVec.ofNat 64 j, name := BitVec.ofNat 64 n })

/-- The number of a request, `(op << 38) | (b << 32) | a` (30_encoding.md R42). -/
def requestNumber (op : Nat) (a : OperandA) (b : OperandB) : Nat := (op <<< 38) ||| (b.toNat <<< 32) ||| a.toNat

/-- The cases (a) to (d) of 30_encoding.md R46, in the fields of a request. -/
def outsideRange (req : Request) : Prop :=
  (reqOp req = 3#3 ∧ reqA req >>> 17 ≠ 0#32) ∨ (reqOp req = 6#3 ∧ reqA req >>> 17 ≠ 0#32) ∨
    (reqOp req = 6#3 ∧ (reqB req >>> 2 ≠ 0#6 ∨ (reqB req).extractLsb' 0 2 = 3#2)) ∨
    (reqOp req = 5#3 ∧ reqA req >>> 6 ≠ 0#32)

/-- The commands that read a table (44_dispatcher.md R87). -/
def readsTable (req : Request) : Prop :=
  reqOp req = 0#3 ∨ reqOp req = 1#3 ∨ reqOp req = 2#3 ∨ reqOp req = 6#3

/-- A pattern of a normal group that passes checks W1 to W4 (43_table_set.md R78). -/
def normalOk (g : Group) (e : Pattern) : Prop :=
  g.sh < 11 ∧ g.mainOp < 64 ∧ g.count + g.sh ≤ 11 ∧ e.magn ≤ g.count ∧ e.value < 2 ^ (g.count - e.magn)

/-- A pattern of a saturated group that passes check W5 (43_table_set.md R78). -/
def saturatedOk (g : Group) (e : Pattern) : Prop := 11 ≤ g.sh ∧ e.value < 64 ∧ e.magn = 0

end Sys2Proof.Machine
end

