-- ==== Sys2Proof/Certificates/Slice0/Obligations.lean ====
section
/-!
DEFINITION. The statements for the provers, from the numbered rules of spec/. `State.answered`,
`State.answeredWord`, `State.turnedAway` and `refuses` (Safety.lean) give the whole next state, so an equation with one of
them is the frame as well. That a response stands on its port is how the model shows it (notes/assumptions/11.md).
-/

open Sys2Proof Sys2Proof.Machine

/-! ## Encodings -/

/-- Decoding what presents an instruction gives the instruction back (30_encoding.md R42, R43, R52). The one term left
out, `ori` with 26 zero bits, is the no-op word, whose own row is decoded (notes/assumptions/14.md). -/
def Obligations.DecodeOfEncode : Prop :=
  ∀ i : Instr, i.canonical = true → decode (encode i) = i

/-- No bit of a request is dropped: encoding what a request decodes to gives the request back (30_encoding.md R42). -/
def Obligations.EncodeOfDecodedRequest : Prop :=
  ∀ req : Request, encode (decode (.request req)) = .request req

/-- The eight commands are the request numbers of 30_encoding.md R42 and R43. -/
def Obligations.RequestNumbers : Prop :=
  ∀ (a : OperandA) (b : OperandB),
    encode (.decode a b) = .request (BitVec.ofNat 41 (requestNumber 0 a b)) ∧
    encode (.decodeJit a b) = .request (BitVec.ofNat 41 (requestNumber 1 a b)) ∧
    encode (.decodeName a b) = .request (BitVec.ofNat 41 (requestNumber 2 a b)) ∧
    encode (.isBranch a b) = .request (BitVec.ofNat 41 (requestNumber 3 a b)) ∧
    encode (.index a b) = .request (BitVec.ofNat 41 (requestNumber 4 a b)) ∧
    encode (.rotmask a b) = .request (BitVec.ofNat 41 (requestNumber 5 a b)) ∧
    encode (.tableRead a b) = .request (BitVec.ofNat 41 (requestNumber 6 a b)) ∧
    encode (.reserved a b) = .request (BitVec.ofNat 41 (requestNumber 7 a b))

/-- Requests and words of 95_test_vectors.md, section 4, decode to the instructions they stand for; that 0x60000000 alone is
`nop` and not `ori` is the model's reading (notes/assumptions/14.md). -/
def Obligations.KnownWordsDecode : Prop :=
  decode (.request 0x0007C642A14#41) = .decode 0x7C642A14#32 0#6 ∧
  decode (.request 0x04060000000#41) = .decodeJit 0x60000000#32 0#6 ∧
  decode (.request 0x0807C642BD6#41) = .decodeName 0x7C642BD6#32 0#6 ∧
  decode (.request 0x0C000000813#41) = .isBranch 0x813#32 0#6 ∧
  decode (.request 0x1004E800020#41) = .index 0x4E800020#32 0#6 ∧
  decode (.request 0x17F00000038#41) = .rotmask 56#32 63#6 ∧
  decode (.request 0x1820000851F#41) = .tableRead 0x851F#32 2#6 ∧
  decode (.request 0x1C000000000#41) = .reserved 0#32 0#6 ∧
  decode (.word 0x60000000#32) = .nop ∧
  decode (.word 0x7C642A14#32) = .add 3205#15 ∧
  decode (.word 0x4E800020#32) = .bclr 0x5000#15 0#1

/-- Which bare words each row of the opcode table takes: the match and mask pairs of 30_encoding.md R52 and of
spec/opcode_table.json, the no-op word before `ori` (the model's choice, notes/assumptions/14.md). -/
def Obligations.WordRowsByMatchAndMask : Prop :=
  ∀ w : InstrWord,
    (decode (.word w) = .nop ↔ w = 0x60000000#32) ∧
    ((∃ r, decode (.word w) = .ori r) ↔ w &&& 0xFC000000#32 = 0x60000000#32 ∧ w ≠ 0x60000000#32) ∧
    ((∃ r, decode (.word w) = .add r) ↔ w &&& 0xFC0007FF#32 = 0x7C000214#32) ∧
    ((∃ r, decode (.word w) = .addRc r) ↔ w &&& 0xFC0007FF#32 = 0x7C000215#32) ∧
    ((∃ r, decode (.word w) = .branch r) ↔ w &&& 0xFC000000#32 = 0x48000000#32) ∧
    ((∃ r, decode (.word w) = .bc r) ↔ w &&& 0xFC000000#32 = 0x40000000#32) ∧
    ((∃ r l, decode (.word w) = .bclr r l) ↔ w &&& 0xFC0007FE#32 = 0x4C000020#32) ∧
    ((∃ r l, decode (.word w) = .bcctr r l) ↔ w &&& 0xFC0007FE#32 = 0x4C000420#32) ∧
    ((∃ r l, decode (.word w) = .rfid r l) ↔ w &&& 0xFC0007FE#32 = 0x4C000024#32)

/-! ## A step runs the decoded instruction -/

/-- When the block attends to a port that carries a request, the step is `exec` of the decoded request on that port. That the
agents' moves stand in an agenda, from which the step takes this one, and that the port is noted in `active`, are the
model's choices (notes/assumptions/1.md, 18.md). -/
def Obligations.StepServesPendingRequest : Prop :=
  ∀ (s : State) (n : Nat) (rest : List Move) (p : Presented),
    s.agenda = .serve n :: rest → s.pendingAt n = some p →
    step s = exec (decode p) { s with agenda := rest, active := n }

/-- The step after `withFetchWord` runs exactly the instruction placed (the model's own placement,
notes/assumptions/15.md). -/
def Obligations.StepRunsFetchWord : Prop :=
  ∀ (s : State) (nbits w : Nat) (p : Presented),
    0 < s.ports.length → presentBits nbits w = .ok p →
    decodeTableWord nbits w = some (decode p) ∧
    step (s.withFetchWord nbits w) =
      exec (decode p)
        { s with
          ports := s.ports.set 0 { pending := some p, response := none, marks := none }
          active := 0 }

/-! ## Commands that read no table: answered in any phase -/

/-- INDEX (41_indexer.md R63). -/
def Obligations.IndexCommand : Prop :=
  ∀ (w : OperandA) (b : OperandB) (s : State),
    decode (.request (BitVec.ofNat 41 (requestNumber 4 w b))) = .index w b ∧
    exec (.index w b) s =
      .next (s.answered ((((w <<< 6) ||| (w >>> 26)).extractLsb' 0 17 : DecodeIndex).setWidth 64)) ∧
    (((w <<< 6) ||| (w >>> 26)).extractLsb' 0 17 : DecodeIndex) =
      (w.extractLsb' 0 11 ++ w.extractLsb' 26 6 : BitVec 17)

/-- The indexer drops `w[25:11]`, and each index is the image of exactly 2^15 words: the words `word(idx, rest)`, so that
every 17-bit value is an index. Both are the spec's own inferences from its R63 (41_indexer.md R64, R65). -/
def Obligations.IndexDropsMiddleBits : Prop :=
  (∀ w w' : InstrWord,
    indexOf w = indexOf w' ↔ w.extractLsb' 26 6 = w'.extractLsb' 26 6 ∧ w.extractLsb' 0 11 = w'.extractLsb' 0 11) ∧
  (∀ idx : DecodeIndex, Set.ncard {w : InstrWord | indexOf w = idx} = 2 ^ 15) ∧
  ∀ (idx : DecodeIndex) (rest : BitVec 15),
    indexOf (((idx.extractLsb' 0 6).setWidth 32 <<< 26) ||| (rest.setWidth 32 <<< 11) |||
      (idx.extractLsb' 6 11).setWidth 32) = idx

/-- ROTMASK (40_rotate_mask.md R61): the bit-exact formula, whose result has the MSB-0 bits `mb` through `me` set, wrapping
where `me < mb`, and no other, and is never 0; refused where `a[31:6]` is not 0. -/
def Obligations.RotmaskCommand : Prop :=
  ∀ (a : OperandA) (b : OperandB) (s : State),
    decode (.request (BitVec.ofNat 41 (requestNumber 5 a b))) = .rotmask a b ∧
    (a >>> 6 ≠ 0#32 → refuses (.rotmask a b) s) ∧
    (a >>> 6 = 0#32 →
      let mb := a.toNat
      let me := b.toNat
      let d := (me + 64 - mb) % 64
      let m0 : Data := BitVec.allOnes 64 <<< (63 - d)
      let mask := m0.rotateRight mb
      exec (.rotmask a b) s = .next (s.answered mask) ∧ mask ≠ 0#64 ∧
      ∀ i : Nat, i < 64 → (mask.getLsbD (63 - i) = true ↔ if mb ≤ me then mb ≤ i ∧ i ≤ me else mb ≤ i ∨ i ≤ me))

/-- The set form of the mask, and the two properties of the source that go with it: the spec's own inference from its R61
(40_rotate_mask.md R62). -/
def Obligations.RotateMaskSetForm : Prop :=
  (∀ (mb me : BitVec 6) (p : Nat), p < 64 →
    ((rotateMask mb me).getLsbD p = true ↔
      (((63 - p : Nat) : Int) - (mb.toNat : Int)) % 64 ≤ ((me.toNat : Int) - (mb.toNat : Int)) % 64)) ∧
  (∀ p : Nat, (rotateMask 0#6 0#6).getLsbD p = true ↔ p = 63) ∧
  (∀ mb me : BitVec 6, me < mb → ∀ p : Nat, p < 64 →
    ((rotateMask mb me).getLsbD p = true ↔ mb.toNat ≤ 63 - p ∨ 63 - p ≤ me.toNat))

/-- IS_BRANCH (45_branch_classifier.md): the five opcodes; refused where `a[31:17]` is not 0. The opcode numbers are the
spec's general knowledge (notes/assumptions/17.md). -/
def Obligations.IsBranchCommand : Prop :=
  ∀ (a : OperandA) (b : OperandB) (s : State),
    let idx : DecodeIndex := a.extractLsb' 0 17
    let po := (idx.extractLsb' 0 6).toNat
    let xo := (idx.extractLsb' 7 10).toNat
    let isBr : Prop := po = 18 ∨ po = 16 ∨ (po = 19 ∧ xo = 16) ∨ (po = 19 ∧ xo = 528) ∨ (po = 19 ∧ xo = 18)
    decode (.request (BitVec.ofNat 41 (requestNumber 3 a b))) = .isBranch a b ∧
    (a >>> 17 ≠ 0#32 → refuses (.isBranch a b) s) ∧
    (a >>> 17 = 0#32 → isBr → exec (.isBranch a b) s = .next (s.answered 1#64)) ∧
    (a >>> 17 = 0#32 → ¬ isBr → exec (.isBranch a b) s = .next (s.answered 0#64))

/-- IS_BRANCH of the index of a word: true exactly for the five match and mask pairs; and exactly 4102 indices are
branches. It is the spec's own inference (45_branch_classifier.md R94), from opcode numbers that are its general knowledge
(notes/assumptions/17.md). -/
def Obligations.BranchWords : Prop :=
  (∀ (w : InstrWord) (b : OperandB) (s : State),
    let isBr : Prop := w &&& 0xFC000000#32 = 0x48000000#32 ∨ w &&& 0xFC000000#32 = 0x40000000#32 ∨
      w &&& 0xFC0007FE#32 = 0x4C000020#32 ∨ w &&& 0xFC0007FE#32 = 0x4C000420#32 ∨
      w &&& 0xFC0007FE#32 = 0x4C000024#32
    (isBr → exec (.isBranch ((indexOf w).setWidth 32) b) s = .next (s.answered 1#64)) ∧
    (¬ isBr → exec (.isBranch ((indexOf w).setWidth 32) b) s = .next (s.answered 0#64))) ∧
  Set.ncard {idx : DecodeIndex | isBranchIndex idx = true} = 4102

/-- The reserved command code is refused, whatever the operands and the phase (30_encoding.md R47). -/
def Obligations.ReservedCommand : Prop :=
  ∀ (a : OperandA) (b : OperandB) (s : State),
    decode (.request (BitVec.ofNat 41 (requestNumber 7 a b))) = .reserved a b ∧ refuses (.reserved a b) s

/-! ## Commands that read a table -/

/-- DECODE (44_dispatcher.md R88): held while BUILDING; the fast path for the one literal; the table's entry for every
other word, which is `INVALID` (0) where no pattern covers its index; and `NOP` (2) never appears in the table. The last
two are of a block that meets its invariant. -/
def Obligations.DecodeCommand : Prop :=
  ∀ (w : OperandA) (b : OperandB) (s : State),
    decode (.request (BitVec.ofNat 41 (requestNumber 0 w b))) = .decode w b ∧
    (s.phase = .building → exec (.decode w b) s = .next s) ∧
    (s.phase = .ready → w = 0x60000000#32 → exec (.decode w b) s = .next (s.answered 2#64)) ∧
    (s.phase = .ready → w ≠ 0x60000000#32 → ∀ h, s.it.read (indexOf w) = some h →
      exec (.decode w b) s = .next (s.answered (BitVec.ofNat 64 h))) ∧
    (s.Inv → s.phase = .ready → w ≠ 0x60000000#32 →
      (∀ ge ∈ order s.params, covers ge.1 ge.2 (indexOf w) = false) →
      exec (.decode w b) s = .next (s.answered 0#64)) ∧
    (s.Inv → s.phase = .ready → ∀ idx h, s.it.read idx = some h → h ≠ 2)

/-- DECODE_JIT (44_dispatcher.md R89): held while BUILDING, else the JIT entry, the no-op word included; `JIT_INVALID` (0)
where no pattern covers the word's index, in a block that meets its invariant. -/
def Obligations.DecodeJitCommand : Prop :=
  ∀ (w : OperandA) (b : OperandB) (s : State),
    decode (.request (BitVec.ofNat 41 (requestNumber 1 w b))) = .decodeJit w b ∧
    (s.phase = .building → exec (.decodeJit w b) s = .next s) ∧
    (s.phase = .ready → ∀ j, s.jt.read (indexOf w) = some j →
      exec (.decodeJit w b) s = .next (s.answered (BitVec.ofNat 64 j))) ∧
    (s.Inv → s.phase = .ready → (∀ ge ∈ order s.params, covers ge.1 ge.2 (indexOf w) = false) →
      exec (.decodeJit w b) s = .next (s.answered 0#64))

/-- DECODE_NAME (44_dispatcher.md R90): held while BUILDING, else the name entry, the no-op word included. In a block that
meets its invariant the string of the result is never empty, and the result is `NAME_INVALID` (0), whose string is
`invalid`, where no pattern covers the word's index. -/
def Obligations.DecodeNameCommand : Prop :=
  ∀ (w : OperandA) (b : OperandB) (s : State),
    decode (.request (BitVec.ofNat 41 (requestNumber 2 w b))) = .decodeName w b ∧
    (s.phase = .building → exec (.decodeName w b) s = .next s) ∧
    (s.phase = .ready → ∀ n, s.nt.read (indexOf w) = some n →
      exec (.decodeName w b) s = .next (s.answered (BitVec.ofNat 64 n)) ∧
      (s.Inv → ∃ str, nameString s.params n = some str ∧ str ≠ "")) ∧
    (s.Inv → s.phase = .ready → (∀ ge ∈ order s.params, covers ge.1 ge.2 (indexOf w) = false) →
      exec (.decodeName w b) s = .next (s.answered 0#64) ∧ nameString s.params 0 = some "invalid")

/-- TABLE_READ (44_dispatcher.md R91): the three range refusals, the hold, and the raw entry of the selected table. -/
def Obligations.TableReadCommand : Prop :=
  ∀ (a : OperandA) (b : OperandB) (s : State),
    let idx : DecodeIndex := a.extractLsb' 0 17
    let inside : Prop := a >>> 17 = 0#32 ∧ b >>> 2 = 0#6 ∧ b.extractLsb' 0 2 ≠ 3#2
    decode (.request (BitVec.ofNat 41 (requestNumber 6 a b))) = .tableRead a b ∧
    (¬ inside → refuses (.tableRead a b) s) ∧
    (inside → s.phase = .building → exec (.tableRead a b) s = .next s) ∧
    (inside → s.phase = .ready → b.extractLsb' 0 2 = 0#2 → ∀ h, s.it.read idx = some h →
      exec (.tableRead a b) s = .next (s.answered (BitVec.ofNat 64 h))) ∧
    (inside → s.phase = .ready → b.extractLsb' 0 2 = 1#2 → ∀ h, s.jt.read idx = some h →
      exec (.tableRead a b) s = .next (s.answered (BitVec.ofNat 64 h))) ∧
    (inside → s.phase = .ready → b.extractLsb' 0 2 = 2#2 → ∀ h, s.nt.read idx = some h →
      exec (.tableRead a b) s = .next (s.answered (BitVec.ofNat 64 h)))

/-- Once READY every instruction in range is answered, whatever the tables list: also where an entry was never written,
for any value of the free value (00_scope.md R15; notes/assumptions/6.md). -/
def Obligations.InRangeAnsweredOnceReady : Prop :=
  ∀ (i : Instr) (s : State), s.phase = .ready → i.inRange = true →
    ∃ v m, exec i s =
      .next { s with ports := s.ports.set s.active { pending := none, response := some v, marks := m } }

/-- Phase gating (44_dispatcher.md R87): while BUILDING the four table-reading commands, in range, change nothing, so
the request stays pending; once READY, with the tables as built, they are answered from the built tables; and INDEX,
ROTMASK and IS_BRANCH are answered alike in every phase. -/
def Obligations.PhaseGating : Prop :=
  ∀ (s : State) (a : OperandA) (b : OperandB) (sel : TableSel),
    (s.phase = .building →
      exec (.decode a b) s = .next s ∧ exec (.decodeJit a b) s = .next s ∧ exec (.decodeName a b) s = .next s ∧
      (indexInRange a = true → selectOperand b = some sel → exec (.tableRead a b) s = .next s)) ∧
    (s.phase = .ready → s.Inv →
      exec (.decode a b) s = .next (s.answered
        (if a = 0x60000000#32 then 2#64 else BitVec.ofNat 64 (built s.params (indexOf a)).interp)) ∧
      exec (.decodeJit a b) s = .next (s.answered (BitVec.ofNat 64 (built s.params (indexOf a)).jit)) ∧
      exec (.decodeName a b) s = .next (s.answered (BitVec.ofNat 64 (built s.params (indexOf a)).name)) ∧
      (indexInRange a = true → selectOperand b = some sel →
        exec (.tableRead a b) s = .next (s.answered (BitVec.ofNat 64
          (match sel with
          | .it => (built s.params (indexOperand a)).interp
          | .jt => (built s.params (indexOperand a)).jit
          | .nt => (built s.params (indexOperand a)).name))))) ∧
    (∃ v, exec (.index a b) s = .next (s.answered v)) ∧
    (mbInRange a = true → ∃ v, exec (.rotmask a b) s = .next (s.answered v)) ∧
    (indexInRange a = true → ∃ v, exec (.isBranch a b) s = .next (s.answered v))

/-- Fast-path divergence (70_reset_and_hazards.md R116): for the no-op word DECODE answers `NOP`, which is not what the
raw read of entry 0x18 answers, and the other commands answer the entries of index 0x18; for every other word DECODE
answers as the raw read of its index does. -/
def Obligations.FastPathDivergence : Prop :=
  ∀ (s : State) (b : OperandB), s.Inv → s.phase = .ready →
    (exec (.decode 0x60000000#32 b) s = .next (s.answered 2#64) ∧
      exec (.decodeJit 0x60000000#32 b) s = .next (s.answered (BitVec.ofNat 64 (built s.params 0x18#17).jit)) ∧
      exec (.decodeName 0x60000000#32 b) s = .next (s.answered (BitVec.ofNat 64 (built s.params 0x18#17).name)) ∧
      exec (.tableRead 0x18#32 0#6) s = .next (s.answered (BitVec.ofNat 64 (built s.params 0x18#17).interp)) ∧
      BitVec.ofNat 64 (built s.params 0x18#17).interp ≠ 2#64) ∧
    ∀ w : OperandA, w ≠ 0x60000000#32 →
      exec (.decode w b) s = exec (.tableRead ((indexOf w).setWidth 32) 0#6) s

/-- Constructing a word that matches a pattern and decoding it yields the pattern's handlers, the Rc ones where bit 0 is
set, if no later pattern covers its index (95_test_vectors.md S10). -/
def Obligations.PatternWordsDecodeToTheirHandlers : Prop :=
  ∀ (s : State) (before after : List (Group × Pattern)) (g : Group) (e : Pattern) (w : OperandA) (b : OperandB),
    s.Inv → s.phase = .ready → order s.params = before ++ (g, e) :: after →
    g.sh < 11 → coversNormal g e (indexOf w) = true →
    (∀ ge ∈ after, covers ge.1 ge.2 (indexOf w) = false) → w ≠ 0x60000000#32 →
    exec (.decode w b) s = .next (s.answered (BitVec.ofNat 64 (if w.getLsbD 0 then e.irc else e.ip))) ∧
    exec (.decodeJit w b) s = .next (s.answered (BitVec.ofNat 64 (if w.getLsbD 0 then e.jrc else e.jp))) ∧
    exec (.decodeName w b) s = .next (s.answered (BitVec.ofNat 64 (if w.getLsbD 0 then e.nrc else e.np)))

/-- With a configuration that models the xenon data, the no-op word is named `ori`, and `add` and `add.` decode to two
distinct handlers (30_encoding.md R53, 43_table_set.md R79 W10 and W11). -/
def Obligations.ConformingConfigurationDecodes : Prop :=
  ∀ (s : State) (b : OperandB), s.Inv → s.phase = .ready →
    checkW10 s.params = true → checkW11 s.params = true →
    (∃ n, exec (.decodeName 0x60000000#32 b) s = .next (s.answered (BitVec.ofNat 64 n)) ∧
      nameString s.params n = some "ori") ∧
    ∃ h h' : Data, h ≠ h' ∧ exec (.decode 0x7C000214#32 b) s = .next (s.answered h) ∧
      exec (.decode 0x7C000215#32 b) s = .next (s.answered h')

/-! ## Bare words -/

/-- The no-op word alone on a port, once READY: DECODE's `NOP`, no branch, and the JIT and name entries of index 0x18
(30_encoding.md R52). That a bare word is answered so is the model's choice (notes/assumptions/12.md). -/
def Obligations.NopWordAnswer : Prop :=
  ∀ (s : State) (j n : Nat), s.phase = .ready → s.jt.read 0x18#17 = some j → s.nt.read 0x18#17 = some n →
    exec .nop s = .next (s.answeredWord 2#64
      { index := 0x18#17, branch := false, jit := BitVec.ofNat 64 j, name := BitVec.ofNat 64 n })

/-- `ori`, `add` and `add.` alone on a port, once READY: the entries of the word's index, no branch
(30_encoding.md R53; the model's choice, notes/assumptions/12.md). -/
def Obligations.ConfiguredWordsAnswer : Prop :=
  ∀ s : State, s.phase = .ready →
    (∀ r : BitVec 26, r ≠ 0#26 → answersWord (.ori r) (r.extractLsb' 0 11 ++ 24#6 : BitVec 17) false s) ∧
    (∀ r : BitVec 15, answersWord (.add r) 0x0851F#17 false s) ∧
    (∀ r : BitVec 15, answersWord (.addRc r) 0x0855F#17 false s)

/-- The five branch words alone on a port, once READY: the entries of the word's index, and the verdict that it is a
branch (30_encoding.md R52). That a bare word is answered so is the model's choice (notes/assumptions/12.md); the opcode
numbers are the spec's general knowledge (notes/assumptions/17.md). -/
def Obligations.BranchWordsAnswer : Prop :=
  ∀ s : State, s.phase = .ready →
    (∀ r : BitVec 26, answersWord (.branch r) (r.extractLsb' 0 11 ++ 18#6 : BitVec 17) true s) ∧
    (∀ r : BitVec 26, answersWord (.bc r) (r.extractLsb' 0 11 ++ 16#6 : BitVec 17) true s) ∧
    (∀ (r : BitVec 15) (l : BitVec 1),
      answersWord (.bclr r l) (16#10 ++ l ++ 19#6 : BitVec 17) true s ∧
      answersWord (.bcctr r l) (528#10 ++ l ++ 19#6 : BitVec 17) true s ∧
      answersWord (.rfid r l) (18#10 ++ l ++ 19#6 : BitVec 17) true s)

/-- A bare word with a row is held while BUILDING, like every request that reads a table (44_dispatcher.md R87; the
model's choice, notes/assumptions/12.md). -/
def Obligations.BareWordsHeldWhileBuilding : Prop :=
  ∀ (s : State) (r : BitVec 26) (q : BitVec 15) (l : BitVec 1), s.phase = .building →
    exec .nop s = .next s ∧ exec (.ori r) s = .next s ∧ exec (.add q) s = .next s ∧ exec (.addRc q) s = .next s ∧
    exec (.branch r) s = .next s ∧ exec (.bc r) s = .next s ∧ exec (.bclr q l) s = .next s ∧
    exec (.bcctr q l) s = .next s ∧ exec (.rfid q l) s = .next s

/-! ## Outcomes -/

/-- The checks are made in the order of 60_exceptions.md R100, and the first that applies decides the outcome; the ranges are
those of 30_encoding.md R46, and code 7 is R47's. (That ports do not interact, which R100 infers from 20_memory.md R37, is
`PortsDoNotInteract`.) -/
def Obligations.ChecksInOrder : Prop :=
  ∀ (req : Request) (s : State),
    (reqOp req = 7#3 → refuses (decode (.request req)) s) ∧
    (reqOp req ≠ 7#3 → outsideRange req → refuses (decode (.request req)) s) ∧
    (reqOp req ≠ 7#3 → ¬ outsideRange req → readsTable req → s.phase = .building →
      exec (decode (.request req)) s = .next s) ∧
    (reqOp req ≠ 7#3 → ¬ outsideRange req → ¬ (readsTable req ∧ s.phase = .building) →
      ∃ v, exec (decode (.request req)) s = .next (s.answered v))

/-- A request out of range leaves its port, with no response, and nothing changes but that port and the refusal mark. That
it leaves the port is the model's reading (notes/assumptions/9.md). -/
def Obligations.RefusedRequestLeavesItsPort : Prop :=
  ∀ (i : Instr) (s : State), i.inRange = false → exec i s = .next s.turnedAway

/-- The refusal mark is never cleared (60_exceptions.md R98), by a reset no more than by any other move (the model's
reading, notes/assumptions/10.md). -/
def Obligations.RefusalMarkNeverCleared : Prop :=
  ∀ s t : State, step s = .next t → s.refusalMark = true → t.refusalMark = true

/-- The block raises no exception: every step answers a next state (60_exceptions.md R96). -/
def Obligations.EveryStepCompletes : Prop :=
  ∀ s : State, ∃ t, step s = .next t

/-- A command writes no table, no phase, no build position, no parameter and no other port (10_state.md R21,
20_memory.md R39, 60_exceptions.md R107): only the port it came on and the refusal mark can change. -/
def Obligations.CommandsWriteOnlyTheirPort : Prop :=
  ∀ (i : Instr) (s t : State), exec i s = .next t →
    (∃ ports mark, t = { s with ports := ports, refusalMark := mark }) ∧
    t.ports.length = s.ports.length ∧ ∀ j : Nat, j ≠ s.active → t.ports[j]? = s.ports[j]?

/-- Once READY an answer is a function of the command and the tables alone (10_state.md R27, 20_memory.md R33, R40):
two states that agree in them leave the same content on the port the command came on. -/
def Obligations.AnswerDependsOnCommandAndTables : Prop :=
  ∀ (i : Instr) (s s' t t' : State),
    s.phase = .ready → s'.phase = .ready → s.params = s'.params → s.it = s'.it → s.jt = s'.jt → s.nt = s'.nt →
    s.active < s.ports.length → s'.active < s'.ports.length →
    exec i s = .next t → exec i s' = .next t' → t.ports[s.active]? = t'.ports[s'.active]?

/-- Requests on different ports do not interact: attending to two ports in either order leaves the same state, but for
the model's own note of which port came last (60_exceptions.md R100, R107). -/
def Obligations.PortsDoNotInteract : Prop :=
  ∀ (s t t' u u' : State) (n m : Nat), n ≠ m →
    s.serve n = .next t → t.serve m = .next t' → s.serve m = .next u → u.serve n = .next u' →
    { t' with active := 0 } = { u' with active := 0 }

/-! ## PatternExpander -/

/-- A normal pattern's cover by fields of the index (42_pattern_expander.md R68), and, as the spec infers there, as a match
and mask over the index, and over the word. -/
def Obligations.CoverByMatchAndMask : Prop :=
  ∀ (g : Group) (e : Pattern), normalOk g e →
    (∀ idx : DecodeIndex, covers g e idx = true ↔
      (idx.extractLsb' 0 6).toNat = g.mainOp ∧
        ((idx.extractLsb' 6 11).toNat >>> g.sh) % 2 ^ (g.count - e.magn) = e.value) ∧
    (∀ idx : DecodeIndex, covers g e idx = true ↔
      idx.toNat &&& (0x3F ||| ((2 ^ (g.count - e.magn) - 1) <<< (6 + g.sh))) =
        g.mainOp ||| (e.value <<< (6 + g.sh))) ∧
    ∀ w : InstrWord, covers g e (indexOf w) = true ↔
      (w.extractLsb' 26 6).toNat = g.mainOp ∧ (w.extractLsb' g.sh (g.count - e.magn)).toNat = e.value

/-- A normal pattern covers exactly 2^(11 - (count - magn)) indices, all of its primary opcode: the spec's own inference
from its R68 (42_pattern_expander.md R69). -/
def Obligations.CoverCount : Prop :=
  ∀ (g : Group) (e : Pattern), normalOk g e →
    Set.ncard {idx : DecodeIndex | coversNormal g e idx = true} = 2 ^ (11 - (g.count - e.magn)) ∧
    ∀ idx : DecodeIndex, coversNormal g e idx = true → (idx.extractLsb' 0 6).toNat = g.mainOp

/-- The enumeration of 42_pattern_expander.md R70 produces each index a normal pattern covers exactly once: the spec's own
inference from its R68. -/
def Obligations.EnumerationIsTheCover : Prop :=
  ∀ (g : Group) (e : Pattern), normalOk g e → ∀ idx : DecodeIndex,
    coversNormal g e idx = true ↔
      ∃! ij : Nat × Nat, ij.1 < 2 ^ (e.magn + 11 - g.sh - g.count) ∧ ij.2 < 2 ^ g.sh ∧
        idx.toNat =
          (((((ij.1 <<< (g.count - e.magn)) ||| e.value) <<< g.sh) ||| ij.2) <<< 6) ||| g.mainOp

/-- A saturated pattern covers every index of its primary opcode, 2^11 of them (42_pattern_expander.md R71,
30_encoding.md R51). -/
def Obligations.SaturatedCover : Prop :=
  ∀ (g : Group) (e : Pattern), saturatedOk g e →
    (∀ idx : DecodeIndex, covers g e idx = true ↔ (idx.extractLsb' 0 6).toNat = e.value) ∧
    Set.ncard {idx : DecodeIndex | covers g e idx = true} = 2 ^ 11

/-- The build's own enumeration of a pattern, in both regimes, visits each covered index exactly once
(42_pattern_expander.md R70, R71; 70_reset_and_hazards.md R111). -/
def Obligations.BuildVisitsEachCoveredIndexOnce : Prop :=
  ∀ (g : Group) (e : Pattern), normalOk g e ∨ saturatedOk g e → ∀ idx : DecodeIndex,
    covers g e idx = true ↔ ∃! n : Nat, n < expansions g e ∧ expand g e n = idx

/-- The handler of each pair is chosen by bit 6 of the index, which is the word's bit 0; with `sh = 0` that is the lowest bit
of the pattern's value, unless all its bits are magnitude bits (42_pattern_expander.md R72). -/
def Obligations.HandlersChosenByBitZero : Prop :=
  ∀ e : Pattern,
    (∀ idx : DecodeIndex,
      pick e idx = if idx.getLsbD 6 then ⟨e.irc, e.jrc, e.nrc⟩ else ⟨e.ip, e.jp, e.np⟩) ∧
    (∀ w : InstrWord, (indexOf w).getLsbD 6 = w.getLsbD 0) ∧
    ∀ (g : Group) (idx : DecodeIndex), normalOk g e → g.sh = 0 → e.magn < g.count → covers g e idx = true →
      pick e idx = if e.value % 2 = 1 then ⟨e.irc, e.jrc, e.nrc⟩ else ⟨e.ip, e.jp, e.np⟩

/-- Under `require_equal` every index a saturated pattern of a well-formed configuration covers gets that pattern's one
triple (42_pattern_expander.md R73). -/
def Obligations.SaturatedPatternsGiveOneTriple : Prop :=
  ∀ (p : Params) (g : Group) (e : Pattern) (idx : DecodeIndex), paramsWf p = true →
    p.saturatedRc = .requireEqual → g ∈ p.groups → e ∈ g.entries → 11 ≤ g.sh →
    pick e idx = ⟨e.ip, e.jp, e.np⟩

/-- A configuration with a field that does not fit the 11 bits, or with a pattern that does not fit its field, is refused; a
field is refused also in a group without patterns (42_pattern_expander.md R76). -/
def Obligations.IllFittingPatternsRefused : Prop :=
  ∀ (p : Params) (g : Group), g ∈ p.groups →
    (g.sh < 11 → 11 < g.count + g.sh → paramsWf p = false) ∧
    ∀ e ∈ g.entries,
      (g.sh < 11 → 2 ^ (g.count - e.magn) ≤ e.value ∨ g.count < e.magn → paramsWf p = false) ∧
      (11 ≤ g.sh → 64 ≤ e.value → paramsWf p = false)

/-! ## TableSet -/

/-- Once READY each index holds in the three tables the choice of R72 from the last covering pattern in build order, or the
three sentinels where none covers; under `refuse` at most one pattern covers. The spec infers it from its R80 and R81
(43_table_set.md R83). The invariant is kept by every step and holds at reset (`EveryStepKeepsTheTablesAsBuilt`, `TablesAsBuiltAtReset`). -/
def Obligations.BuiltByLastCoveringPattern : Prop :=
  (∀ (s : State) (idx : DecodeIndex), s.Inv → s.phase = .ready →
    (∃ before g e after, order s.params = before ++ (g, e) :: after ∧ covers g e idx = true ∧
      (∀ ge ∈ after, covers ge.1 ge.2 idx = false) ∧
      s.holds idx (if idx.getLsbD 6 then ⟨e.irc, e.jrc, e.nrc⟩ else ⟨e.ip, e.jp, e.np⟩)) ∨
    ((∀ ge ∈ order s.params, covers ge.1 ge.2 idx = false) ∧ s.holds idx ⟨0, 0, 0⟩)) ∧
  ∀ (p : Params) (idx : DecodeIndex), paramsWf p = true → p.overlap = .refuse →
    ((order p).filter fun ge => covers ge.1 ge.2 idx).length ≤ 1

/-- Under `refuse` neither the order of the groups nor that of the patterns in a group matters to a well-formed configuration:
another one with the same patterns, each with its group's three numbers, in any order, builds the same tables
(42_pattern_expander.md R75, 70_reset_and_hazards.md R115, 43_table_set.md R78 W8). -/
def Obligations.OrderIrrelevantWithoutOverlap : Prop :=
  ∀ p q : Params, paramsWf p = true → p.overlap = .refuse →
    ((order p).map fun ge => (ge.1.mainOp, ge.1.count, ge.1.sh, ge.2)).Perm
      ((order q).map fun ge => (ge.1.mainOp, ge.1.count, ge.1.sh, ge.2)) →
    ∀ idx : DecodeIndex, built p idx = built q idx

/-- The identifiers of the built tables fit their widths, and `NOP` is none of them (43_table_set.md R78 W7). -/
def Obligations.BuiltIdsFitTheirTables : Prop :=
  ∀ (p : Params) (idx : DecodeIndex), paramsWf p = true →
    (built p idx).interp < 2 ^ p.hidW ∧ (built p idx).interp ≠ 2 ∧
    (built p idx).jit < 2 ^ p.jidW ∧ (built p idx).name < 2 ^ p.nidW

/-- Every index has a name, and no name is empty. It is `invalid` where no pattern covers, or the pattern names
`NAME_INVALID`; and exactly there, in a configuration that a block is elaborated with, the block's own among them: the spec
infers both halves (43_table_set.md R85), and that a configuration with a second id named `invalid` is not elaborated is the
model's reading of it (notes/assumptions/21.md). -/
def Obligations.EveryIndexIsNamed : Prop :=
  (∀ (p : Params) (idx : DecodeIndex), paramsWf p = true →
    (∃ str, nameString p (built p idx).name = some str ∧ str ≠ "") ∧
    ((built p idx).name = 0 → nameString p (built p idx).name = some "invalid") ∧
    ((∀ ge ∈ order p, covers ge.1 ge.2 idx = false) → nameString p (built p idx).name = some "invalid")) ∧
  (∀ (p : Params) (idx : DecodeIndex), elaborates p = true →
    (nameString p (built p idx).name = some "invalid" ↔
      lastCover p idx = none ∨ ∃ g e, lastCover p idx = some (g, e) ∧ (pick e idx).name = 0)) ∧
  ∀ idx : DecodeIndex,
    nameString State.reset.params (built State.reset.params idx).name = some "invalid" ↔
      lastCover State.reset.params idx = none ∨
        ∃ g e, lastCover State.reset.params idx = some (g, e) ∧ (pick e idx).name = 0

/-- One move of the build sequencer in the sentinel fill writes the sentinels to one index of the three tables and leaves every
other entry (43_table_set.md R80). That a move is one index, and that the indices rise, is the model's choice
(notes/assumptions/8.md). -/
def Obligations.SentinelFillWritesOneIndex : Prop :=
  ∀ (s : State) (i : Nat), s.phase = .building → s.pos = .sentinelFill i → i < 131072 →
    ∃ t, s.perform .build = .next t ∧ t.phase = .building ∧ t.ports = s.ports ∧ t.params = s.params ∧
      t.refusalMark = s.refusalMark ∧ t.holds (BitVec.ofNat 17 i) ⟨0, 0, 0⟩ ∧
      (∀ idx : DecodeIndex, idx.toNat ≠ i →
        t.it.read idx = s.it.read idx ∧ t.jt.read idx = s.jt.read idx ∧ t.nt.read idx = s.nt.read idx) ∧
      (i + 1 < 131072 → t.pos = .sentinelFill (i + 1)) ∧ (i + 1 = 131072 → t.pos = .fill 0 0)

/-- One move of the build sequencer in a pattern writes one index of the three tables, place `k` of the pattern's enumeration,
which the pattern covers, with the handlers that 42_pattern_expander.md R72 picks, and leaves every other entry; the next
move goes on with the next place or the next pattern. That a move is one index, and in which order, is the model's choice
(notes/assumptions/8.md). -/
def Obligations.FillWritesOneCoveredIndex : Prop :=
  ∀ (s : State) (n k : Nat) (g : Group) (e : Pattern), s.phase = .building → s.pos = .fill n k →
    (order s.params)[n]? = some (g, e) → (normalOk g e ∨ saturatedOk g e) → k < expansions g e →
    let idx := expand g e k
    ∃ t, s.perform .build = .next t ∧ covers g e idx = true ∧ t.phase = .building ∧ t.ports = s.ports ∧
      t.params = s.params ∧ t.refusalMark = s.refusalMark ∧
      t.holds idx (if idx.getLsbD 6 then ⟨e.irc, e.jrc, e.nrc⟩ else ⟨e.ip, e.jp, e.np⟩) ∧
      (∀ idx' : DecodeIndex, idx' ≠ idx →
        t.it.read idx' = s.it.read idx' ∧ t.jt.read idx' = s.jt.read idx' ∧ t.nt.read idx' = s.nt.read idx') ∧
      t.pos = afterWrite g e n k ∧
      (k + 1 < expansions g e → t.pos = .fill n (k + 1)) ∧ (k + 1 = expansions g e → t.pos = .fill (n + 1) 0)

/-- `PHASE` changes only by the build sequencer, from BUILDING to READY past the last pattern, and by reset
(10_state.md R20). -/
def Obligations.OnlyTheBuildPublishes : Prop :=
  ∀ (s t : State) (m : Move), s.perform m = .next t → t.phase ≠ s.phase →
    (m = .build ∧ s.phase = .building ∧ t.phase = .ready ∧
      ∃ n k, s.pos = .fill n k ∧ (order s.params)[n]? = none ∧ t.it = s.it ∧ t.jt = s.jt ∧ t.nt = s.nt) ∨
    (m = .reset ∧ t.phase = .building)

/-- From publication on no step but a reset writes a table or leaves READY (43_table_set.md R82, R86). -/
def Obligations.PublishedTablesFrozen : Prop :=
  ∀ s t : State, s.phase = .ready → (∀ rest, s.agenda ≠ .reset :: rest) → step s = .next t →
    t.phase = .ready ∧ t.it = s.it ∧ t.jt = s.jt ∧ t.nt = s.nt

/-- No step changes the configuration or the number of ports (10_state.md R25, 00_scope.md R11). -/
def Obligations.ConfigurationNeverChanges : Prop :=
  ∀ s t : State, step s = .next t → t.params = s.params ∧ t.ports.length = s.ports.length

/-! ## The whole block -/

/-- The invariant of the block, in its every state: the tables are in canonical form and hold exactly what the build has
written so far, and once READY the built tables (10_state.md R27, 20_memory.md R37, 43_table_set.md R83). Every step
keeps it, a reset included. -/
def Obligations.EveryStepKeepsTheTablesAsBuilt : Prop :=
  ∀ s t : State, s.Inv → step s = .next t → t.Inv

/-- The invariant holds right after reset, for the block's own parameters (of which the model knows only that they are
well-formed, notes/assumptions/3.md) and for every well-formed configuration. -/
def Obligations.TablesAsBuiltAtReset : Prop :=
  State.reset.Inv ∧ ∀ (p : Params) (n : Nat), paramsWf p = true → (State.resetWith p n).Inv

/-- After reset, with no request, the build takes exactly as many moves as it has writes and one for the publication:
BUILDING before, READY then, with the built tables (43_table_set.md R81 to R83, 70_reset_and_hazards.md R111). That each
write is one move of the build is the model's choice (notes/assumptions/8.md). -/
def Obligations.BuildReachesReady : Prop :=
  ∀ (p : Params) (nPorts : Nat), paramsWf p = true →
    (∀ k, k < buildMoves p →
      ∃ t, Sys2Proof.core.run k (State.resetWith p nPorts) = .next t ∧ t.phase = .building) ∧
    ∃ t, Sys2Proof.core.run (buildMoves p) (State.resetWith p nPorts) = .next t ∧ t.phase = .ready ∧
      t.params = p ∧ ∀ idx, t.holds idx (built p idx)

/-- Liveness (70_reset_and_hazards.md R121): from every state that meets the invariant, once nothing more comes from outside,
finitely many steps lead to READY with every request done: its port then holds exactly what `exec` of the request leaves
there in that READY state, which is a response for a request in range; a request out of range has set the refusal mark and
left no response; and a port without a request is as it was. It rests on the model's fair default order
(notes/assumptions/2.md) and on a refused request leaving its port (notes/assumptions/9.md). -/
def Obligations.EveryRequestLeavesItsPort : Prop :=
  ∀ s : State, s.Inv → s.agenda = [] →
    ∃ k t, Sys2Proof.core.run k s = .next t ∧ t.phase = .ready ∧ t.params = s.params ∧ (∀ q ∈ t.ports, q.pending = none) ∧
      ∀ (n : Nat) (q : Port), s.ports[n]? = some q →
        (q.pending = none → t.ports[n]? = some q) ∧
        ∀ p, q.pending = some p →
          (∃ u, exec (decode p) { t with active := n } = .next u ∧ t.ports[n]? = u.ports[n]?) ∧
          ((decode p).inRange = true →
            ∃ v m, t.ports[n]? = some { pending := none, response := some v, marks := m }) ∧
          ((decode p).inRange = false →
            t.ports[n]? = some { pending := none, response := none, marks := none } ∧ t.refusalMark = true)

/-- With an empty agenda the step runs the first request that need not be held (one that reads no table, one out of range, or
any once READY): it is `exec` of that request, which then leaves its port, and no other port changes
(70_reset_and_hazards.md R121). Which request is first, and that a refused one leaves its port, are the model's choices
(notes/assumptions/2.md, 9.md). -/
def Obligations.AnswerableRequestGoesFirst : Prop :=
  ∀ (s : State) (n : Nat) (q : Port) (p : Presented), s.agenda = [] → s.ports[n]? = some q → q.pending = some p →
    s.answerable q = true →
    (∀ (m : Nat) (q' : Port), m < n → s.ports[m]? = some q' → s.answerable q' = false) →
    step s = exec (decode p) { s with active := n } ∧
    ∃ t, step s = .next t ∧ t.pendingAt n = none ∧ ∀ j : Nat, j ≠ n → t.ports[j]? = s.ports[j]?

/-! ## Reset and arrival -/

/-- The state after reset (10_state.md R28): BUILDING, at the start of the sentinel fill, no command pending on any of at
least one port; and the refusal mark clear, which is the model's reading (notes/assumptions/10.md). -/
def Obligations.ResetState : Prop :=
  State.reset.phase = .building ∧ State.reset.ready = false ∧ State.reset.pos = .sentinelFill 0 ∧
  1 ≤ State.reset.ports.length ∧ (∀ q ∈ State.reset.ports, q.pending = none) ∧ State.reset.refusalMark = false

/-- A reset by the host starts the build again and drops every pending request (70_reset_and_hazards.md R110), and
leaves the configuration and the refusal mark (the model's reading, notes/assumptions/10.md). -/
def Obligations.HostResetRestartsTheBuild : Prop :=
  ∀ s : State, ∃ t, s.perform .reset = .next t ∧ t.phase = .building ∧ t.pos = .sentinelFill 0 ∧
    (∀ q ∈ t.ports, q.pending = none) ∧ t.ports.length = s.ports.length ∧ t.params = s.params ∧
    t.refusalMark = s.refusalMark

/-- A requester's command arrives on a port that carries none, and on no other; a busy port keeps its one request
(60_exceptions.md R107; the busy case is the model's choice, notes/assumptions/16.md). -/
def Obligations.RequestArrivesOnItsPort : Prop :=
  ∀ (s : State) (n : Nat) (p : Presented) (q : Port), s.ports[n]? = some q →
    ∃ t, s.perform (.issue n p) = .next t ∧
      (q.pending = none → t.ports[n]? = some { pending := some p, response := none, marks := none }) ∧
      (q.pending ≠ none → t = s) ∧ ∀ j : Nat, j ≠ n → t.ports[j]? = s.ports[j]?

/-! ## The build, step by step -/

/-- While BUILDING with an empty agenda and only requests that must be held, the step is the build sequencer's, and it
brings READY one move nearer: READY is exactly when no move is left (70_reset_and_hazards.md R111). The default order and
the size of a move are the model's choices (notes/assumptions/2.md, 8.md). -/
def Obligations.QuietStepBringsReadyNearer : Prop :=
  ∀ s : State, s.Inv → s.agenda = [] → s.phase = .building → (∀ q ∈ s.ports, s.answerable q = false) →
    step s = s.perform .build ∧
    ∃ t, step s = .next t ∧ t.buildMovesLeft + 1 = s.buildMovesLeft ∧ (t.buildMovesLeft = 0 ↔ t.phase = .ready) ∧
      t.ports = s.ports ∧ t.agenda = [] ∧ t.refusalMark = s.refusalMark
end

