-- ==== Sys2Proof/Laws/Memory.lean ====
section
/-!
SUPPORT. The laws of a lookup memory: read after write, and every operation keeps the canonical form.
-/

namespace Sys2Proof.Machine

theorem lookupCell_insertCell_same (cs : List (Nat × Nat)) (a v : Nat) :
    lookupCell (insertCell cs a v) a = some v := by
  induction cs with
  | nil => simp [insertCell, lookupCell]
  | cons c rest ih =>
    unfold insertCell
    split
    · simp [lookupCell]
    · split
      · simp [lookupCell]
      · rename_i hne
        simp [lookupCell, hne, ih]

theorem lookupCell_insertCell_other (cs : List (Nat × Nat)) (a v a' : Nat) (h : a' ≠ a) :
    lookupCell (insertCell cs a v) a' = lookupCell cs a' := by
  induction cs with
  | nil => simp [insertCell, lookupCell, h.symm]
  | cons c rest ih =>
    unfold insertCell
    split
    · simp [lookupCell, h.symm]
    · split
      · rename_i heq
        simp [lookupCell, heq, h.symm]
      · simp only [lookupCell, ih]

/-- A read after a write to the same entry gives the value written. -/
@[simp] theorem read_write_same (m : Memory) (idx : DecodeIndex) (v : Nat) :
    (m.write idx v).read idx = some v :=
  lookupCell_insertCell_same m.cells idx.toNat v

/-- A write leaves every other entry alone. -/
theorem read_write_other (m : Memory) {idx idx' : DecodeIndex} (v : Nat) (h : idx' ≠ idx) :
    (m.write idx v).read idx' = m.read idx' :=
  lookupCell_insertCell_other m.cells idx.toNat v idx'.toNat fun e => h (BitVec.eq_of_toNat_eq e)

/-- A write, read at any entry. -/
theorem read_write (m : Memory) (idx idx' : DecodeIndex) (v : Nat) :
    (m.write idx v).read idx' = if idx' = idx then some v else m.read idx' := by
  by_cases h : idx' = idx
  · simp [h]
  · simp [h, read_write_other m v h]

@[simp] theorem read_empty (idx : DecodeIndex) : Memory.empty.read idx = none := rfl

theorem mem_insertCell {cs : List (Nat × Nat)} {a v : Nat} {c : Nat × Nat} (h : c ∈ insertCell cs a v) :
    c = (a, v) ∨ c ∈ cs := by
  induction cs with
  | nil => simpa [insertCell] using h
  | cons d rest ih =>
    unfold insertCell at h
    split at h
    · simpa using h
    · split at h
      · rcases List.mem_cons.1 h with h | h
        · exact .inl h
        · exact .inr (List.mem_cons_of_mem _ h)
      · rcases List.mem_cons.1 h with h | h
        · exact .inr (h ▸ List.mem_cons_self)
        · exact (ih h).imp id (List.mem_cons_of_mem _)

theorem insertCell_pairwise {cs : List (Nat × Nat)} (a v : Nat) (h : cs.Pairwise fun c d => c.1 < d.1) :
    (insertCell cs a v).Pairwise fun c d => c.1 < d.1 := by
  induction cs with
  | nil => simp [insertCell]
  | cons c rest ih =>
    obtain ⟨hc, hrest⟩ := List.pairwise_cons.1 h
    unfold insertCell
    split
    · rename_i hlt
      refine List.pairwise_cons.2 ⟨fun d hd => ?_, h⟩
      rcases List.mem_cons.1 hd with rfl | hd
      · exact hlt
      · exact hlt.trans (hc d hd)
    · split
      · rename_i heq
        exact List.pairwise_cons.2 ⟨fun d hd => heq ▸ hc d hd, hrest⟩
      · rename_i hge hne
        refine List.pairwise_cons.2 ⟨fun d hd => ?_, ih hrest⟩
        rcases mem_insertCell hd with rfl | hd
        · exact lt_of_le_of_ne (Nat.le_of_not_lt hge) hne
        · exact hc d hd

/-- A write keeps the canonical form. -/
theorem write_wf (m : Memory) (idx : DecodeIndex) (v : Nat) (h : m.wf) : (m.write idx v).wf := by
  refine ⟨insertCell_pairwise _ _ h.1, fun c hc => ?_⟩
  rcases mem_insertCell hc with rfl | hc
  · exact idx.isLt
  · exact h.2 c hc

/-- The memory in which nothing has been written is in canonical form. -/
theorem empty_wf : Memory.empty.wf := by
  refine ⟨List.Pairwise.nil, fun c hc => ?_⟩
  cases hc

/-- A write of the build sequencer keeps the canonical form of the three tables. -/
theorem writeEntry_memoriesWf (s : State) (idx : DecodeIndex) (t : Triple)
    (h : s.it.wf ∧ s.jt.wf ∧ s.nt.wf) :
    (s.writeEntry idx t).it.wf ∧ (s.writeEntry idx t).jt.wf ∧ (s.writeEntry idx t).nt.wf :=
  ⟨write_wf _ _ _ h.1, write_wf _ _ _ h.2.1, write_wf _ _ _ h.2.2⟩

/-- The tables of the state after reset are in canonical form. -/
theorem reset_memoriesWf : State.reset.it.wf ∧ State.reset.jt.wf ∧ State.reset.nt.wf :=
  ⟨empty_wf, empty_wf, empty_wf⟩

end Sys2Proof.Machine
end

