-- ==== Sys2Proof/Laws/Built.lean ====
section
/-!
SUPPORT. A READY state with the built tables of any configuration, written down without running the build, so that the
hypotheses of a statement about READY can be shown met.
-/

namespace Sys2Proof.Machine

/-- The memory in which the first `n` entries are listed, with the values of a function. -/
def tabulateTo (n : Nat) (f : DecodeIndex → Nat) : Memory := ⟨(List.range n).map fun i => (i, f (BitVec.ofNat 17 i))⟩

theorem lookupCell_map (l : List Nat) (f : Nat → Nat) (a : Nat) (h : a ∈ l) :
    lookupCell (l.map fun i => (i, f i)) a = some (f a) := by
  induction l with
  | nil => cases h
  | cons x rest ih =>
    simp only [List.map_cons, lookupCell]
    split
    · simp [*]
    · rename_i hne
      exact ih ((List.mem_cons.1 h).resolve_left fun e => hne e.symm)

theorem read_tabulateTo (n : Nat) (f : DecodeIndex → Nat) (idx : DecodeIndex) (h : idx.toNat < n) :
    (tabulateTo n f).read idx = some (f idx) := by
  have hl := lookupCell_map (List.range n) (fun i => f (BitVec.ofNat 17 i)) idx.toNat (List.mem_range.2 h)
  simpa [Memory.read, tabulateTo] using hl

theorem tabulateTo_pairwise (n : Nat) (f : DecodeIndex → Nat) :
    (tabulateTo n f).cells.Pairwise fun c d => c.1 < d.1 :=
  List.pairwise_map.2 List.pairwise_lt_range

theorem tabulateTo_lt (n : Nat) (f : DecodeIndex → Nat) : ∀ c ∈ (tabulateTo n f).cells, c.1 < n := by
  intro c hc
  obtain ⟨i, hi, rfl⟩ := List.mem_map.1 hc
  exact List.mem_range.1 hi

/-- The memory in which every entry is listed. -/
@[irreducible] def tabulate (f : DecodeIndex → Nat) : Memory := tabulateTo tableSize f

/-- Every entry of a tabulated memory reads as the function says. -/
theorem read_tabulate (f : DecodeIndex → Nat) (idx : DecodeIndex) : (tabulate f).read idx = some (f idx) := by
  unfold tabulate
  have h : idx.toNat < tableSize := idx.isLt
  exact read_tabulateTo tableSize f idx h

/-- A tabulated memory is in canonical form. -/
theorem tabulate_wf (f : DecodeIndex → Nat) : (tabulate f).wf := by
  unfold tabulate
  exact And.intro (tabulateTo_pairwise _ f) (tabulateTo_lt _ f)

/-- READY, with the built tables of a configuration, and given ports. -/
def builtState (p : Params) (ports : List Port) : State :=
  { State.resetWith p 0 with
    phase := .ready
    it := tabulate fun i => (built p i).interp
    jt := tabulate fun i => (built p i).jit
    nt := tabulate fun i => (built p i).name
    ports := ports }

/-- It meets the invariant. -/
theorem builtState_inv {p : Params} (h : paramsWf p = true) (ports : List Port) : (builtState p ports).Inv where
  params := h
  memories := ⟨tabulate_wf _, tabulate_wf _, tabulate_wf _⟩
  tables := fun idx => ⟨read_tabulate _ idx, read_tabulate _ idx, read_tabulate _ idx⟩

end Sys2Proof.Machine
end

