-- ==== Sys2Proof/Laws/Words.lean ====
section
/-!
SUPPORT. The numbers that requests, words and indices are, and the numbers that their fields are: with these a fact about
fields is linear arithmetic on numbers.
-/

namespace Sys2Proof.Machine

/-! ## Requests -/

theorem requestOf_toNat (op : BitVec 3) (b : OperandB) (a : OperandA) :
    (requestOf op b a).toNat = op.toNat * 2 ^ 38 + b.toNat * 2 ^ 32 + a.toNat := by
  have h1 : (requestOf op b a).toNat = (op ++ b).toNat <<< 32 ||| a.toNat := BitVec.toNat_append _ _
  have h2 : (op ++ b).toNat = op.toNat <<< 6 ||| b.toNat := BitVec.toNat_append _ _
  rw [h1, h2, ← Nat.shiftLeft_add_eq_or_of_lt b.isLt, ← Nat.shiftLeft_add_eq_or_of_lt a.isLt]
  simp only [Nat.shiftLeft_eq]
  omega

theorem requestNumber_lt (op : BitVec 3) (a : OperandA) (b : OperandB) :
    requestNumber op.toNat a b = op.toNat * 2 ^ 38 + b.toNat * 2 ^ 32 + a.toNat := by
  have hb := b.isLt
  have ha := a.isLt
  have h : b.toNat <<< 32 ||| a.toNat = b.toNat * 2 ^ 32 + a.toNat := by
    rw [← Nat.shiftLeft_add_eq_or_of_lt ha, Nat.shiftLeft_eq]
  unfold requestNumber
  rw [Nat.lor_assoc, h, ← Nat.shiftLeft_add_eq_or_of_lt (by omega), Nat.shiftLeft_eq]
  omega

/-- The request of a number is the request of its fields (30_encoding.md R42). -/
theorem ofNat_requestNumber (op : BitVec 3) (a : OperandA) (b : OperandB) :
    BitVec.ofNat 41 (requestNumber op.toNat a b) = requestOf op b a := by
  apply BitVec.eq_of_toNat_eq
  have ho := op.isLt
  have hb := b.isLt
  have ha := a.isLt
  rw [requestOf_toNat, BitVec.toNat_ofNat, requestNumber_lt]
  omega

theorem reqOp_toNat (req : Request) : (reqOp req).toNat = req.toNat / 2 ^ 38 % 2 ^ 3 := by
  simp [reqOp, BitVec.extractLsb'_toNat, Nat.shiftRight_eq_div_pow]

theorem reqB_toNat (req : Request) : (reqB req).toNat = req.toNat / 2 ^ 32 % 2 ^ 6 := by
  simp [reqB, BitVec.extractLsb'_toNat, Nat.shiftRight_eq_div_pow]

theorem reqA_toNat (req : Request) : (reqA req).toNat = req.toNat % 2 ^ 32 := by
  simp [reqA, BitVec.extractLsb'_toNat]

@[simp] theorem reqOp_requestOf (op : BitVec 3) (b : OperandB) (a : OperandA) : reqOp (requestOf op b a) = op := by
  apply BitVec.eq_of_toNat_eq
  have ho := op.isLt
  have hb := b.isLt
  have ha := a.isLt
  rw [reqOp_toNat, requestOf_toNat]
  omega

@[simp] theorem reqB_requestOf (op : BitVec 3) (b : OperandB) (a : OperandA) : reqB (requestOf op b a) = b := by
  apply BitVec.eq_of_toNat_eq
  have ho := op.isLt
  have hb := b.isLt
  have ha := a.isLt
  rw [reqB_toNat, requestOf_toNat]
  omega

@[simp] theorem reqA_requestOf (op : BitVec 3) (b : OperandB) (a : OperandA) : reqA (requestOf op b a) = a := by
  apply BitVec.eq_of_toNat_eq
  have ho := op.isLt
  have hb := b.isLt
  have ha := a.isLt
  rw [reqA_toNat, requestOf_toNat]
  omega

/-- A request is made of its fields. -/
theorem requestOf_fields (req : Request) : requestOf (reqOp req) (reqB req) (reqA req) = req := by
  apply BitVec.eq_of_toNat_eq
  have h := req.isLt
  rw [requestOf_toNat, reqOp_toNat, reqB_toNat, reqA_toNat]
  omega

/-! ## Words -/

theorem wordPO_toNat (w : InstrWord) : (wordPO w).toNat = w.toNat / 2 ^ 26 := by
  have h := w.isLt
  simp only [wordPO, BitVec.extractLsb'_toNat, Nat.shiftRight_eq_div_pow]
  omega

theorem wordF_toNat (w : InstrWord) : (wordF w).toNat = w.toNat % 2 ^ 11 := by
  simp [wordF, BitVec.extractLsb'_toNat]

theorem wordXO_toNat (w : InstrWord) : (wordXO w).toNat = w.toNat / 2 % 2 ^ 10 := by
  simp [wordXO, BitVec.extractLsb'_toNat, Nat.shiftRight_eq_div_pow]

theorem wordRest_toNat (w : InstrWord) : (wordRest w).toNat = w.toNat / 2 ^ 11 % 2 ^ 15 := by
  simp [wordRest, BitVec.extractLsb'_toNat, Nat.shiftRight_eq_div_pow]

theorem poWord_toNat (po : BitVec 6) (rest : BitVec 26) :
    (poWord po rest).toNat = po.toNat * 2 ^ 26 + rest.toNat := by
  have h : (poWord po rest).toNat = po.toNat <<< 26 ||| rest.toNat := BitVec.toNat_append _ _
  rw [h, ← Nat.shiftLeft_add_eq_or_of_lt rest.isLt, Nat.shiftLeft_eq]

theorem fWord_toNat (po : BitVec 6) (rest : BitVec 15) (f : BitVec 11) :
    (fWord po rest f).toNat = po.toNat * 2 ^ 26 + rest.toNat * 2 ^ 11 + f.toNat := by
  have h1 : (fWord po rest f).toNat = (po ++ rest).toNat <<< 11 ||| f.toNat := BitVec.toNat_append _ _
  have h2 : (po ++ rest).toNat = po.toNat <<< 15 ||| rest.toNat := BitVec.toNat_append _ _
  rw [h1, h2, ← Nat.shiftLeft_add_eq_or_of_lt rest.isLt, ← Nat.shiftLeft_add_eq_or_of_lt f.isLt]
  simp only [Nat.shiftLeft_eq]
  omega

theorem xlWord_toNat (po : BitVec 6) (rest : BitVec 15) (xo : BitVec 10) (lk : BitVec 1) :
    (xlWord po rest xo lk).toNat = po.toNat * 2 ^ 26 + rest.toNat * 2 ^ 11 + xo.toNat * 2 + lk.toNat := by
  have h1 : (xlWord po rest xo lk).toNat = (po ++ rest ++ xo).toNat <<< 1 ||| lk.toNat := BitVec.toNat_append _ _
  have h2 : (po ++ rest ++ xo).toNat = (po ++ rest).toNat <<< 10 ||| xo.toNat := BitVec.toNat_append _ _
  have h3 : (po ++ rest).toNat = po.toNat <<< 15 ||| rest.toNat := BitVec.toNat_append _ _
  rw [h1, h2, h3, ← Nat.shiftLeft_add_eq_or_of_lt rest.isLt, ← Nat.shiftLeft_add_eq_or_of_lt xo.isLt,
    ← Nat.shiftLeft_add_eq_or_of_lt lk.isLt]
  simp only [Nat.shiftLeft_eq]
  omega

/-! ## Indices -/

/-- The index of a word in numbers: `idx[5:0] = w[31:26]`, `idx[16:6] = w[10:0]` (41_indexer.md R63). -/
theorem indexOf_toNat (w : InstrWord) : (indexOf w).toNat = w.toNat % 2 ^ 11 * 2 ^ 6 + w.toNat / 2 ^ 26 := by
  have h := w.isLt
  have hlt : w.toNat / 2 ^ 26 < 2 ^ 6 := by omega
  have hdvd : w.toNat * 2 ^ 6 % 2 ^ 32 = w.toNat % 2 ^ 26 * 2 ^ 6 := by omega
  have hr : (rotl32 w 6).toNat = w.toNat % 2 ^ 26 * 2 ^ 6 + w.toNat / 2 ^ 26 := by
    simp only [rotl32, BitVec.toNat_or, BitVec.toNat_shiftLeft, BitVec.toNat_ushiftRight, Nat.shiftLeft_eq,
      Nat.shiftRight_eq_div_pow, hdvd]
    rw [← Nat.shiftLeft_eq, ← Nat.shiftLeft_add_eq_or_of_lt hlt]
  simp only [indexOf, BitVec.extractLsb'_toNat, Nat.shiftRight_zero, hr]
  omega

theorem idxPO_toNat (idx : DecodeIndex) : (idxPO idx).toNat = idx.toNat % 2 ^ 6 := by
  simp [idxPO, BitVec.extractLsb'_toNat]

theorem idxF_toNat (idx : DecodeIndex) : (idxF idx).toNat = idx.toNat / 2 ^ 6 := by
  have h := idx.isLt
  simp only [idxF, BitVec.extractLsb'_toNat, Nat.shiftRight_eq_div_pow]
  omega

theorem idxXO_toNat (idx : DecodeIndex) : (idxXO idx).toNat = idx.toNat / 2 ^ 7 := by
  have h := idx.isLt
  simp only [idxXO, BitVec.extractLsb'_toNat, Nat.shiftRight_eq_div_pow]
  omega

/-- The primary opcode of a word's index is the word's. -/
@[simp] theorem idxPO_indexOf (w : InstrWord) : idxPO (indexOf w) = wordPO w := by
  apply BitVec.eq_of_toNat_eq
  have h := w.isLt
  rw [idxPO_toNat, indexOf_toNat, wordPO_toNat]
  omega

/-- The F field of a word's index is the word's. -/
@[simp] theorem idxF_indexOf (w : InstrWord) : idxF (indexOf w) = wordF w := by
  apply BitVec.eq_of_toNat_eq
  have h := w.isLt
  rw [idxF_toNat, indexOf_toNat, wordF_toNat]
  omega

/-- The XL-form extended opcode of a word's index is the word's. -/
@[simp] theorem idxXO_indexOf (w : InstrWord) : idxXO (indexOf w) = wordXO w := by
  apply BitVec.eq_of_toNat_eq
  have h := w.isLt
  have hpo : w.toNat / 2 ^ 26 < 2 ^ 6 := by omega
  have hf : (w.toNat % 2 ^ 11 * 2 ^ 6 + w.toNat / 2 ^ 26) / 2 ^ 7 = w.toNat % 2 ^ 11 / 2 := by omega
  rw [idxXO_toNat, indexOf_toNat, wordXO_toNat, hf]
  exact Nat.mod_mul_right_div_self w.toNat 2 (2 ^ 10)

end Sys2Proof.Machine
end

