-- ==== Sys2Proof/Laws/TableSet.lean ====
section
/-!
SUPPORT. What a well-formed configuration guarantees, one lemma per check that later proofs cite, and the lemmas of the
build order and of the choice between a pattern's two handlers.
-/

namespace Sys2Proof.Machine

/-! ## The checks -/

theorem widths_of_wf {p : Params} (h : paramsWf p = true) :
    (2 ≤ p.hidW ∧ p.hidW ≤ 64) ∧ (1 ≤ p.jidW ∧ p.jidW ≤ 64) ∧ (1 ≤ p.nidW ∧ p.nidW ≤ 64) := by
  simp only [paramsWf, checkWidths, Bool.and_eq_true, decide_eq_true_eq] at h
  tauto

theorem checkW6_of_wf {p : Params} (h : paramsWf p = true) : checkW6 p = true := by
  simp only [paramsWf, Bool.and_eq_true] at h
  tauto

theorem checkW7_of_wf {p : Params} (h : paramsWf p = true) : checkW7 p = true := by
  simp only [paramsWf, Bool.and_eq_true] at h
  tauto

theorem checkW8_of_wf {p : Params} (h : paramsWf p = true) : checkW8 p = true := by
  simp only [paramsWf, Bool.and_eq_true] at h
  tauto

theorem checkW9_of_wf {p : Params} (h : paramsWf p = true) : checkW9 p = true := by
  simp only [paramsWf, Bool.and_eq_true] at h
  tauto

/-! ## The build order -/

theorem mem_order {p : Params} {g : Group} {e : Pattern} : (g, e) ∈ order p ↔ g ∈ p.groups ∧ e ∈ g.entries := by
  simp [order]

/-- Every pattern of a well-formed configuration fits (checks W1 to W5). -/
theorem pattern_fits {p : Params} (h : paramsWf p = true) {g : Group} {e : Pattern} (hge : (g, e) ∈ order p) :
    normalOk g e ∨ saturatedOk g e := by
  simp only [paramsWf, Bool.and_eq_true] at h
  obtain ⟨⟨⟨⟨⟨⟨⟨⟨⟨-, w1⟩, w2⟩, w3⟩, w4⟩, w5⟩, -⟩, -⟩, -⟩, -⟩ := h
  simp only [checkW1, checkW2, checkW3, checkW4, checkW5, List.all_eq_true, Bool.or_eq_true, Bool.and_eq_true,
    decide_eq_true_eq, Bool.not_eq_true', valueWidth] at w1 w2 w3 w4 w5
  obtain ⟨hg, he⟩ := mem_order.1 hge
  by_cases hs : saturated g = true
  · have h5 := (w5 g hg).resolve_left (by simp [hs]) e he
    exact .inr ⟨of_decide_eq_true hs, h5⟩
  · have hlt : g.sh < 11 := by simpa [saturated] using hs
    exact .inl ⟨hlt, (w1 g hg).resolve_left hs, (w2 g hg).resolve_left hs, (w3 g hg).resolve_left hs e he,
      of_decide_eq_true ((w4 g hg).resolve_left hs e he)⟩

/-- The identifiers of every pattern of a well-formed configuration fit (check W7). -/
theorem ids_of_wf {p : Params} (h : paramsWf p = true) {g : Group} {e : Pattern} (hge : (g, e) ∈ order p) :
    patternIdsOk p e = true := by
  have h7 := checkW7_of_wf h
  simp only [checkW7, List.all_eq_true] at h7
  obtain ⟨hg, he⟩ := mem_order.1 hge
  exact h7 g hg e he

/-- The last covering pattern is a pattern of the configuration, and it covers. -/
theorem lastCover_mem {p : Params} {idx : DecodeIndex} {ge : Group × Pattern} (h : lastCover p idx = some ge) :
    ge ∈ order p ∧ covers ge.1 ge.2 idx = true := by
  simpa [covering] using List.mem_of_getLast? h

/-- What a block is elaborated with always passes the checks of an elaboration. -/
theorem bootParams_elaborates : elaborates bootParams = true := by
  unfold bootParams
  split
  · assumption
  · decide +kernel

/-- What a block is elaborated with is always well-formed. -/
theorem bootParams_wf : paramsWf bootParams = true :=
  (Bool.and_eq_true_iff.1 bootParams_elaborates).1

/-- What a block is elaborated with has no second id named `invalid`. -/
theorem bootParams_namesApart : checkNamesApart bootParams = true :=
  (Bool.and_eq_true_iff.1 bootParams_elaborates).2

/-- Where no second id is named `invalid`, an id has that name only if it is `NAME_INVALID`. -/
theorem eq_nameInvalid {p : Params} (h : checkNamesApart p = true) {n : Nat} (hn : nameString p n = some "invalid") :
    n = idNameInvalid := by
  obtain ⟨l₁, l₂, heq, -⟩ := List.lookup_eq_some_iff.1 hn
  have hmem : (n, "invalid") ∈ p.nameStr := by simp [heq]
  exact of_decide_eq_true (List.all_eq_true.1 h _ hmem) hn

/-! ## The selection bit -/

theorem selBit_eq_getLsbD (idx : DecodeIndex) : selBit idx = idx.getLsbD 6 := by
  rw [Bool.eq_iff_iff]
  simp only [selBit, beq_iff_eq, ← BitVec.toNat_inj, BitVec.extractLsb'_toNat, BitVec.getLsbD, Nat.testBit,
    Nat.shiftRight_eq_div_pow]
  simp [Nat.one_and_eq_mod_two]

/-! ## The regime of a group -/

theorem covers_normal {g : Group} (e : Pattern) (h : g.sh < 11) (idx : DecodeIndex) :
    covers g e idx = coversNormal g e idx := by
  have hs : saturated g = false := by simpa [saturated] using h
  simp [covers, hs]

theorem covers_saturated {g : Group} (e : Pattern) (h : 11 ≤ g.sh) (idx : DecodeIndex) :
    covers g e idx = true ↔ idx.toNat % 2 ^ 6 = e.value := by
  have hs : saturated g = true := by simpa [saturated] using h
  simp [covers, hs, coversSaturated, idxPO_toNat]

/-- A normal pattern's cover in numbers (42_pattern_expander.md R68). -/
theorem coversNormal_iff (g : Group) (e : Pattern) (idx : DecodeIndex) :
    coversNormal g e idx = true ↔
      idx.toNat % 2 ^ 6 = g.mainOp ∧ idx.toNat / 2 ^ 6 / 2 ^ g.sh % 2 ^ (g.count - e.magn) = e.value := by
  simp [coversNormal, idxPO_toNat, idxF_toNat, valueWidth, Nat.shiftRight_eq_div_pow]

end Sys2Proof.Machine
end

