-- ==== Sys2Proof/Laws/Expander.lean ====
section
/-!
SUPPORT. The enumeration of a pattern in linear arithmetic: what index number `n` of it is, as a number.
-/

namespace Sys2Proof.Machine

theorem expansions_normal {g : Group} {e : Pattern} (h : g.sh < 11) :
    expansions g e = 2 ^ (e.magn + 11 - g.sh - g.count) * 2 ^ g.sh := by
  have hs : saturated g = false := by simpa [saturated] using h
  simp [expansions, hs]

theorem expansions_saturated {g : Group} {e : Pattern} (h : 11 ≤ g.sh) : expansions g e = 2 ^ 11 := by
  have hs : saturated g = true := by simpa [saturated] using h
  simp [expansions, hs]

/-- The enumeration of a pattern is never empty. -/
theorem expansions_pos (g : Group) (e : Pattern) : 0 < expansions g e := by
  unfold expansions
  split
  · exact Nat.two_pow_pos 11
  · exact Nat.mul_pos (Nat.two_pow_pos _) (Nat.two_pow_pos _)

/-- The F value of place `n` without bit operations, where the pattern's value fits its width. -/
theorem expandF_eq {g : Group} {e : Pattern} (h : e.value < 2 ^ (g.count - e.magn)) (n : Nat) :
    expandF g e n = (n / 2 ^ g.sh * 2 ^ (g.count - e.magn) + e.value) * 2 ^ g.sh + n % 2 ^ g.sh := by
  unfold expandF valueWidth
  simp only []
  rw [← Nat.shiftLeft_add_eq_or_of_lt h, ← Nat.shiftLeft_add_eq_or_of_lt (Nat.mod_lt _ (Nat.two_pow_pos _))]
  simp only [Nat.shiftLeft_eq]

/-- Index number `n` of a normal pattern, where that F value has 11 bits. -/
theorem expand_normal_toNat {g : Group} {e : Pattern} (h : normalOk g e) {n : Nat} (hF : expandF g e n < 2 ^ 11) :
    (expand g e n).toNat = expandF g e n * 2 ^ 6 + g.mainOp := by
  have hs : saturated g = false := by simpa [saturated] using h.1
  have hm : g.mainOp < 2 ^ 6 := h.2.1
  simp only [expand, hs, Bool.false_eq_true, if_false, BitVec.toNat_ofNat]
  rw [← Nat.shiftLeft_add_eq_or_of_lt hm, Nat.shiftLeft_eq]
  omega

/-- Index number `n` of a saturated pattern. -/
theorem expand_saturated_toNat {g : Group} {e : Pattern} (h : saturatedOk g e) {n : Nat} (hn : n < 2 ^ 11) :
    (expand g e n).toNat = n * 2 ^ 6 + e.value := by
  have hs : saturated g = true := by simpa [saturated] using h.1
  have hv : e.value < 2 ^ 6 := h.2.1
  simp only [expand, hs, if_true, BitVec.toNat_ofNat]
  rw [← Nat.shiftLeft_add_eq_or_of_lt hv, Nat.shiftLeft_eq]
  omega

end Sys2Proof.Machine
end

