-- ==== Sys2Proof/Laws/State.lean ====
section
/-!
SUPPORT. One lemma per field per update of the state, true by rfl, so that no proof unfolds an update.
-/

namespace Sys2Proof.Machine

/-! ## setPort -/

@[simp] theorem setPort_params (s : State) (q : Port) :
    (s.setPort q).params = s.params := rfl

@[simp] theorem setPort_phase (s : State) (q : Port) :
    (s.setPort q).phase = s.phase := rfl

@[simp] theorem setPort_it (s : State) (q : Port) :
    (s.setPort q).it = s.it := rfl

@[simp] theorem setPort_jt (s : State) (q : Port) :
    (s.setPort q).jt = s.jt := rfl

@[simp] theorem setPort_nt (s : State) (q : Port) :
    (s.setPort q).nt = s.nt := rfl

@[simp] theorem setPort_pos (s : State) (q : Port) :
    (s.setPort q).pos = s.pos := rfl

@[simp] theorem setPort_ports (s : State) (q : Port) :
    (s.setPort q).ports = s.ports.set s.active q := rfl

@[simp] theorem setPort_refusalMark (s : State) (q : Port) :
    (s.setPort q).refusalMark = s.refusalMark := rfl

@[simp] theorem setPort_active (s : State) (q : Port) :
    (s.setPort q).active = s.active := rfl

@[simp] theorem setPort_agenda (s : State) (q : Port) :
    (s.setPort q).agenda = s.agenda := rfl

/-! ## respond -/

@[simp] theorem respond_params (s : State) (v : Data) :
    (s.respond v).params = s.params := rfl

@[simp] theorem respond_phase (s : State) (v : Data) :
    (s.respond v).phase = s.phase := rfl

@[simp] theorem respond_it (s : State) (v : Data) :
    (s.respond v).it = s.it := rfl

@[simp] theorem respond_jt (s : State) (v : Data) :
    (s.respond v).jt = s.jt := rfl

@[simp] theorem respond_nt (s : State) (v : Data) :
    (s.respond v).nt = s.nt := rfl

@[simp] theorem respond_pos (s : State) (v : Data) :
    (s.respond v).pos = s.pos := rfl

@[simp] theorem respond_ports (s : State) (v : Data) :
    (s.respond v).ports = s.ports.set s.active { pending := none, response := some v, marks := none } := rfl

@[simp] theorem respond_refusalMark (s : State) (v : Data) :
    (s.respond v).refusalMark = s.refusalMark := rfl

@[simp] theorem respond_active (s : State) (v : Data) :
    (s.respond v).active = s.active := rfl

@[simp] theorem respond_agenda (s : State) (v : Data) :
    (s.respond v).agenda = s.agenda := rfl

/-! ## respondWord -/

@[simp] theorem respondWord_params (s : State) (v : Data) (m : WordMarks) :
    (s.respondWord v m).params = s.params := rfl

@[simp] theorem respondWord_phase (s : State) (v : Data) (m : WordMarks) :
    (s.respondWord v m).phase = s.phase := rfl

@[simp] theorem respondWord_it (s : State) (v : Data) (m : WordMarks) :
    (s.respondWord v m).it = s.it := rfl

@[simp] theorem respondWord_jt (s : State) (v : Data) (m : WordMarks) :
    (s.respondWord v m).jt = s.jt := rfl

@[simp] theorem respondWord_nt (s : State) (v : Data) (m : WordMarks) :
    (s.respondWord v m).nt = s.nt := rfl

@[simp] theorem respondWord_pos (s : State) (v : Data) (m : WordMarks) :
    (s.respondWord v m).pos = s.pos := rfl

@[simp] theorem respondWord_ports (s : State) (v : Data) (m : WordMarks) :
    (s.respondWord v m).ports = s.ports.set s.active { pending := none, response := some v, marks := some m } := rfl

@[simp] theorem respondWord_refusalMark (s : State) (v : Data) (m : WordMarks) :
    (s.respondWord v m).refusalMark = s.refusalMark := rfl

@[simp] theorem respondWord_active (s : State) (v : Data) (m : WordMarks) :
    (s.respondWord v m).active = s.active := rfl

@[simp] theorem respondWord_agenda (s : State) (v : Data) (m : WordMarks) :
    (s.respondWord v m).agenda = s.agenda := rfl

/-! ## refuse -/

@[simp] theorem refuse_params (s : State) :
    s.refuse.params = s.params := rfl

@[simp] theorem refuse_phase (s : State) :
    s.refuse.phase = s.phase := rfl

@[simp] theorem refuse_it (s : State) :
    s.refuse.it = s.it := rfl

@[simp] theorem refuse_jt (s : State) :
    s.refuse.jt = s.jt := rfl

@[simp] theorem refuse_nt (s : State) :
    s.refuse.nt = s.nt := rfl

@[simp] theorem refuse_pos (s : State) :
    s.refuse.pos = s.pos := rfl

@[simp] theorem refuse_ports (s : State) :
    s.refuse.ports = s.ports.set s.active { pending := none, response := none, marks := none } := rfl

@[simp] theorem refuse_refusalMark (s : State) :
    s.refuse.refusalMark = true := rfl

@[simp] theorem refuse_active (s : State) :
    s.refuse.active = s.active := rfl

@[simp] theorem refuse_agenda (s : State) :
    s.refuse.agenda = s.agenda := rfl

/-! ## hold -/

@[simp] theorem hold_params (s : State) :
    s.hold.params = s.params := rfl

@[simp] theorem hold_phase (s : State) :
    s.hold.phase = s.phase := rfl

@[simp] theorem hold_it (s : State) :
    s.hold.it = s.it := rfl

@[simp] theorem hold_jt (s : State) :
    s.hold.jt = s.jt := rfl

@[simp] theorem hold_nt (s : State) :
    s.hold.nt = s.nt := rfl

@[simp] theorem hold_pos (s : State) :
    s.hold.pos = s.pos := rfl

@[simp] theorem hold_ports (s : State) :
    s.hold.ports = s.ports := rfl

@[simp] theorem hold_refusalMark (s : State) :
    s.hold.refusalMark = s.refusalMark := rfl

@[simp] theorem hold_active (s : State) :
    s.hold.active = s.active := rfl

@[simp] theorem hold_agenda (s : State) :
    s.hold.agenda = s.agenda := rfl

/-! ## writeEntry -/

@[simp] theorem writeEntry_params (s : State) (idx : DecodeIndex) (t : Triple) :
    (s.writeEntry idx t).params = s.params := rfl

@[simp] theorem writeEntry_phase (s : State) (idx : DecodeIndex) (t : Triple) :
    (s.writeEntry idx t).phase = s.phase := rfl

@[simp] theorem writeEntry_it (s : State) (idx : DecodeIndex) (t : Triple) :
    (s.writeEntry idx t).it = s.it.write idx t.interp := rfl

@[simp] theorem writeEntry_jt (s : State) (idx : DecodeIndex) (t : Triple) :
    (s.writeEntry idx t).jt = s.jt.write idx t.jit := rfl

@[simp] theorem writeEntry_nt (s : State) (idx : DecodeIndex) (t : Triple) :
    (s.writeEntry idx t).nt = s.nt.write idx t.name := rfl

@[simp] theorem writeEntry_pos (s : State) (idx : DecodeIndex) (t : Triple) :
    (s.writeEntry idx t).pos = s.pos := rfl

@[simp] theorem writeEntry_ports (s : State) (idx : DecodeIndex) (t : Triple) :
    (s.writeEntry idx t).ports = s.ports := rfl

@[simp] theorem writeEntry_refusalMark (s : State) (idx : DecodeIndex) (t : Triple) :
    (s.writeEntry idx t).refusalMark = s.refusalMark := rfl

@[simp] theorem writeEntry_active (s : State) (idx : DecodeIndex) (t : Triple) :
    (s.writeEntry idx t).active = s.active := rfl

@[simp] theorem writeEntry_agenda (s : State) (idx : DecodeIndex) (t : Triple) :
    (s.writeEntry idx t).agenda = s.agenda := rfl

/-! ## hostReset -/

@[simp] theorem hostReset_params (s : State) :
    s.hostReset.params = s.params := rfl

@[simp] theorem hostReset_phase (s : State) :
    s.hostReset.phase = .building := rfl

@[simp] theorem hostReset_it (s : State) :
    s.hostReset.it = Memory.empty := rfl

@[simp] theorem hostReset_jt (s : State) :
    s.hostReset.jt = Memory.empty := rfl

@[simp] theorem hostReset_nt (s : State) :
    s.hostReset.nt = Memory.empty := rfl

@[simp] theorem hostReset_pos (s : State) :
    s.hostReset.pos = .sentinelFill 0 := rfl

@[simp] theorem hostReset_ports (s : State) :
    s.hostReset.ports = s.ports.map fun _ => Port.idle := rfl

@[simp] theorem hostReset_refusalMark (s : State) :
    s.hostReset.refusalMark = s.refusalMark := rfl

@[simp] theorem hostReset_active (s : State) :
    s.hostReset.active = s.active := rfl

@[simp] theorem hostReset_agenda (s : State) :
    s.hostReset.agenda = s.agenda := rfl

/-! ## issue -/

@[simp] theorem issue_params (s : State) (n : Nat) (p : Presented) :
    (s.issue n p).params = s.params := rfl

@[simp] theorem issue_phase (s : State) (n : Nat) (p : Presented) :
    (s.issue n p).phase = s.phase := rfl

@[simp] theorem issue_it (s : State) (n : Nat) (p : Presented) :
    (s.issue n p).it = s.it := rfl

@[simp] theorem issue_jt (s : State) (n : Nat) (p : Presented) :
    (s.issue n p).jt = s.jt := rfl

@[simp] theorem issue_nt (s : State) (n : Nat) (p : Presented) :
    (s.issue n p).nt = s.nt := rfl

@[simp] theorem issue_pos (s : State) (n : Nat) (p : Presented) :
    (s.issue n p).pos = s.pos := rfl

@[simp] theorem issue_refusalMark (s : State) (n : Nat) (p : Presented) :
    (s.issue n p).refusalMark = s.refusalMark := rfl

@[simp] theorem issue_active (s : State) (n : Nat) (p : Presented) :
    (s.issue n p).active = s.active := rfl

@[simp] theorem issue_agenda (s : State) (n : Nat) (p : Presented) :
    (s.issue n p).agenda = s.agenda := rfl

/-! ## The state after reset -/

@[simp] theorem reset_params : State.reset.params = bootParams := rfl

@[simp] theorem reset_ports : State.reset.ports = List.replicate Config.nPorts Port.idle := rfl

@[simp] theorem reset_agenda : State.reset.agenda = [] := rfl

end Sys2Proof.Machine
end

