-- ==== Sys2Proof/Laws/Ops.lean ====
section
/-!
SUPPORT. What each shared operation, and `exec`, can do, said once: the provers cite these lemmas and do not unfold.
-/

namespace Sys2Proof.Machine

/-! ## Reads of a table entry -/

/-- An entry that has been written reads as what was written. -/
theorem entry_of_read {s : State} {sel : TableSel} {idx : DecodeIndex} {v : Nat}
    (h : (s.table sel).read idx = some v) : s.entry sel idx = v := by
  simp [State.entry, h]

/-- An entry that has been written, as a response. -/
theorem entryData_of_read {s : State} {sel : TableSel} {idx : DecodeIndex} {v : Nat}
    (h : (s.table sel).read idx = some v) : s.entryData sel idx = BitVec.ofNat 64 v := by
  simp [State.entryData, entry_of_read h]

/-- DECODE's data for the no-op word does not depend on the state. -/
@[simp] theorem decodeData_nop (s : State) : s.decodeData nopWord = 2#64 := by
  simp [State.decodeData, idNop]

/-- DECODE's data for every other word is its table entry. -/
theorem decodeData_of_ne {s : State} {w : InstrWord} (h : w ≠ nopWord) :
    s.decodeData w = s.entryData .it (indexOf w) := by
  simp [State.decodeData, h]

/-! ## The phase decides between a hold and an answer -/

theorem respondWhenReady_building {s : State} (h : s.phase = .building) (v : Data) : s.respondWhenReady v = s := by
  simp [State.respondWhenReady, h, State.hold]

theorem respondWhenReady_ready {s : State} (h : s.phase = .ready) (v : Data) :
    s.respondWhenReady v = s.respond v := by
  simp [State.respondWhenReady, h]

theorem answerWord_building {s : State} (h : s.phase = .building) (w : InstrWord) : s.answerWord w = s := by
  simp [State.answerWord, h, State.hold]

theorem answerWord_ready {s : State} (h : s.phase = .ready) (w : InstrWord) :
    s.answerWord w = s.respondWord (s.decodeData w) (s.marksOf w) := by
  simp [State.answerWord, h]

/-! ## What `exec` can do -/

/-- The three things that can become of a request (60_exceptions.md R97): it is held, answered or refused. -/
def outcomeOf (s t : State) : Prop :=
  t = s ∨ (∃ v m, t = s.setPort { pending := none, response := some v, marks := m }) ∨ t = s.refuse

theorem outcomeOf_respond (s : State) (v : Data) : outcomeOf s (s.respond v) := .inr (.inl ⟨v, none, rfl⟩)

theorem outcomeOf_refuse (s : State) : outcomeOf s s.refuse := .inr (.inr rfl)

theorem outcomeOf_respondWhenReady (s : State) (v : Data) : outcomeOf s (s.respondWhenReady v) := by
  cases h : s.phase
  · exact .inl (respondWhenReady_building h v)
  · exact respondWhenReady_ready h v ▸ outcomeOf_respond s v

theorem outcomeOf_answerWord (s : State) (w : InstrWord) : outcomeOf s (s.answerWord w) := by
  cases h : s.phase
  · exact .inl (answerWord_building h w)
  · exact .inr (.inl ⟨_, _, answerWord_ready h w⟩)

/-- Every meaning answers a next state, and that state is the request's hold, answer or refusal. -/
theorem exec_outcome (i : Instr) (s : State) : ∃ t, exec i s = .next t ∧ outcomeOf s t := by
  cases i with
  | decode w b => exact ⟨_, rfl, outcomeOf_respondWhenReady s _⟩
  | decodeJit w b => exact ⟨_, rfl, outcomeOf_respondWhenReady s _⟩
  | decodeName w b => exact ⟨_, rfl, outcomeOf_respondWhenReady s _⟩
  | isBranch a b =>
    simp only [exec, execIsBranch]
    split
    · exact ⟨_, rfl, outcomeOf_respond s _⟩
    · exact ⟨_, rfl, outcomeOf_refuse s⟩
  | index w b => exact ⟨_, rfl, outcomeOf_respond s _⟩
  | rotmask a b =>
    simp only [exec, execRotmask]
    split
    · exact ⟨_, rfl, outcomeOf_respond s _⟩
    · exact ⟨_, rfl, outcomeOf_refuse s⟩
  | tableRead a b =>
    simp only [exec, execTableRead]
    split
    · split
      · exact ⟨_, rfl, outcomeOf_respondWhenReady s _⟩
      · exact ⟨_, rfl, outcomeOf_refuse s⟩
    · exact ⟨_, rfl, outcomeOf_refuse s⟩
  | reserved a b => exact ⟨_, rfl, outcomeOf_refuse s⟩
  | nop => exact ⟨_, rfl, outcomeOf_answerWord s _⟩
  | ori rest => exact ⟨_, rfl, outcomeOf_answerWord s _⟩
  | add rest => exact ⟨_, rfl, outcomeOf_answerWord s _⟩
  | addRc rest => exact ⟨_, rfl, outcomeOf_answerWord s _⟩
  | branch rest => exact ⟨_, rfl, outcomeOf_answerWord s _⟩
  | bc rest => exact ⟨_, rfl, outcomeOf_answerWord s _⟩
  | bclr rest lk => exact ⟨_, rfl, outcomeOf_answerWord s _⟩
  | bcctr rest lk => exact ⟨_, rfl, outcomeOf_answerWord s _⟩
  | rfid rest lk => exact ⟨_, rfl, outcomeOf_answerWord s _⟩

/-- The inversion of `exec`: if it answers next t, t is the request's hold, answer or refusal. -/
theorem outcomeOf_exec {i : Instr} {s t : State} (h : exec i s = .next t) : outcomeOf s t := by
  obtain ⟨t', h', ho⟩ := exec_outcome i s
  rw [h] at h'
  injection h' with h'
  exact h' ▸ ho

end Sys2Proof.Machine
end

