-- ==== Sys2Proof/Laws/Step.lean ====
section
/-!
SUPPORT. What a step can do, said once: which move it makes, and what each move can do.
-/

namespace Sys2Proof.Machine

/-- The step makes the first move of the agenda. -/
theorem step_of_agenda {s : State} {m : Move} {rest : List Move} (h : s.agenda = m :: rest) :
    step s = { s with agenda := rest }.perform m := by
  simp [step, h]

/-- With an empty agenda the step makes the default move. -/
theorem step_of_default {s : State} {m : Move} (ha : s.agenda = []) (hm : s.defaultMove = some m) :
    step s = s.perform m := by
  simp [step, ha, hm]

/-- With nothing to do the step changes nothing. -/
theorem step_of_rest {s : State} (ha : s.agenda = []) (hm : s.defaultMove = none) : step s = .next s := by
  simp [step, ha, hm]

/-- A run of one step more. -/
theorem run_succ {s t : State} {k : Nat} (h : step s = .next t) :
    Sys2Proof.core.run (k + 1) s = Sys2Proof.core.run k t := by
  have h' : Sys2Proof.core.step s = .next t := h
  simp only [Host.Core.run, h']

/-- A step is a move from a state that differs at most in its agenda, or it changes nothing. -/
theorem step_cases {s t : State} (h : step s = .next t) :
    (∃ m rest, s.agenda = m :: rest ∧ { s with agenda := rest }.perform m = .next t) ∨
      (∃ m, s.agenda = [] ∧ s.defaultMove = some m ∧ s.perform m = .next t) ∨ t = s := by
  cases ha : s.agenda with
  | cons m rest => exact .inl ⟨m, rest, rfl, step_of_agenda ha ▸ h⟩
  | nil =>
    cases hm : s.defaultMove with
    | some m => exact .inr (.inl ⟨m, rfl, rfl, step_of_default ha hm ▸ h⟩)
    | none =>
      rw [step_of_rest ha hm] at h
      injection h with h
      exact .inr (.inr h.symm)

/-- Attending to a port either finds nothing there, or runs the decoded request on that port. -/
theorem serve_cases {s t : State} {n : Nat} (h : s.serve n = .next t) :
    (s.pendingAt n = none ∧ t = s) ∨
      ∃ p, s.pendingAt n = some p ∧ outcomeOf { s with active := n } t := by
  unfold State.serve at h
  split at h
  · injection h with h
    exact .inl ⟨‹_›, h.symm⟩
  · exact .inr ⟨_, ‹_›, outcomeOf_exec h⟩

/-- What one move can do. -/
theorem perform_cases {s t : State} {m : Move} (h : s.perform m = .next t) :
    (∃ n p, m = .issue n p ∧ t = s.issue n p) ∨ (∃ n, m = .serve n ∧ s.serve n = .next t) ∨
      (m = .build ∧ t = s.buildMove) ∨ (m = .reset ∧ t = s.hostReset) := by
  cases m with
  | issue n p => injection h with h; exact .inl ⟨n, p, rfl, h.symm⟩
  | serve n => exact .inr (.inl ⟨n, rfl, h⟩)
  | build => injection h with h; exact .inr (.inr (.inl ⟨rfl, h.symm⟩))
  | reset => injection h with h; exact .inr (.inr (.inr ⟨rfl, h.symm⟩))

/-- The default move is never a request's arrival or a reset. -/
theorem defaultMove_cases {s : State} {m : Move} (h : s.defaultMove = some m) :
    (∃ n, s.nextPort = some n ∧ m = .serve n) ∨ (s.nextPort = none ∧ s.phase = .building ∧ m = .build) := by
  unfold State.defaultMove at h
  split at h
  · injection h with h; exact .inl ⟨_, ‹_›, h.symm⟩
  · split at h
    · injection h with h; exact .inr ⟨‹_›, ‹_›, h.symm⟩
    · cases h

/-! ## What one move of the build sequencer does -/

theorem buildMove_ready {s : State} (h : s.phase = .ready) : s.buildMove = s := by
  simp [State.buildMove, h]

theorem buildMove_sentinel {s : State} {i : Nat} (h : s.phase = .building) (hp : s.pos = .sentinelFill i) :
    s.buildMove = { s.writeEntry (BitVec.ofNat 17 i) sentinels with pos := afterSentinel i } := by
  simp [State.buildMove, h, hp]

theorem buildMove_publish {s : State} {n k : Nat} (h : s.phase = .building) (hp : s.pos = .fill n k)
    (hn : (order s.params)[n]? = none) : s.buildMove = { s with phase := .ready } := by
  simp only [State.buildMove, h, hp, hn]

theorem buildMove_fill {s : State} {n k : Nat} {ge : Group × Pattern} (h : s.phase = .building)
    (hp : s.pos = .fill n k) (hn : (order s.params)[n]? = some ge) :
    s.buildMove =
      { s.writeEntry (expand ge.1 ge.2 k) (pick ge.2 (expand ge.1 ge.2 k)) with
        pos := afterWrite ge.1 ge.2 n k } := by
  simp only [State.buildMove, h, hp, hn]

/-- What a move of the build sequencer leaves alone, whatever it does. -/
theorem buildMove_frame (s : State) :
    s.buildMove.params = s.params ∧ s.buildMove.ports = s.ports ∧ s.buildMove.refusalMark = s.refusalMark ∧
    s.buildMove.active = s.active ∧ s.buildMove.agenda = s.agenda := by
  cases h : s.phase with
  | ready => simp [buildMove_ready h]
  | building =>
    cases hp : s.pos with
    | sentinelFill i => simp [buildMove_sentinel h hp]
    | fill n k =>
      cases hn : (order s.params)[n]? with
      | none => simp [buildMove_publish h hp hn]
      | some ge => simp [buildMove_fill h hp hn]

end Sys2Proof.Machine
end

