-- ==== Sys2Proof/Tests/Slice0.lean ====
section
/-!
SUPPORT. Tests: the ill-formed terms that WellFormed refuses, words written out from the spec's encodings, the vectors of
95_test_vectors.md, single steps on small states, and for each statement with hypotheses a witness that meets them
together. Expected values are those of 95_test_vectors.md, section 2 to 5, unless a comment says otherwise.
-/

open Sys2Proof Sys2Proof.Machine

namespace Sys2Proof.Tests

/-! ## WellFormed refuses an ill-formed term for each check (30_encoding.md R46, R47) -/

theorem test_wf_refuses_reserved_code : (Instr.reserved 0#32 0#6).wf = false := by decide
theorem test_wf_refuses_wide_branch_index : (Instr.isBranch 0x20000#32 0#6).wf = false := by decide
theorem test_wf_refuses_wide_table_index : (Instr.tableRead 0x20000#32 0#6).wf = false := by decide
theorem test_wf_refuses_table_bits : (Instr.tableRead 0x0851F#32 4#6).wf = false := by decide
theorem test_wf_refuses_table_three : (Instr.tableRead 0x0851F#32 3#6).wf = false := by decide
theorem test_wf_refuses_wide_mask_bound : (Instr.rotmask 64#32 0#6).wf = false := by decide
theorem test_wf_refuses_second_nop : (Instr.ori 0#26).wf = false := by decide
theorem test_wf_accepts_bounds :
    (Instr.isBranch 0x1FFFF#32 63#6).wf = true ∧ (Instr.tableRead 0x1FFFF#32 2#6).wf = true ∧
    (Instr.rotmask 63#32 63#6).wf = true ∧ (Instr.ori 1#26).wf = true := by decide

/-! ## Words written out bit by bit: op, b, a of a request; PO, the middle bits and F (or XO and bit 0) of a word -/

theorem test_decode_decode :
    decodeTableWord 48 0b000_000000_01111100011001000010101000010100 = some (.decode 0x7C642A14#32 0#6) := by decide
theorem test_decode_decodeJit :
    decodeTableWord 48 0b001_000000_01100000000000000000000000000000 = some (.decodeJit 0x60000000#32 0#6) := by decide
theorem test_decode_decodeName :
    decodeTableWord 48 0b010_000000_01100000000000000000000000000000 = some (.decodeName 0x60000000#32 0#6) := by decide
theorem test_decode_isBranch :
    decodeTableWord 48 0b011_000000_00000000000000000000100000010011 = some (.isBranch 0x813#32 0#6) := by decide
theorem test_decode_index :
    decodeTableWord 48 0b100_000000_01001110100000000000000000100000 = some (.index 0x4E800020#32 0#6) := by decide
theorem test_decode_rotmask :
    decodeTableWord 48 0b101_111111_00000000000000000000000000111000 = some (.rotmask 56#32 63#6) := by decide
theorem test_decode_tableRead :
    decodeTableWord 48 0b110_000010_00000000000000001000010100011111 = some (.tableRead 0x851F#32 2#6) := by decide
theorem test_decode_reserved :
    decodeTableWord 48 0b111_000000_00000000000000000000000000000000 = some (.reserved 0#32 0#6) := by decide
theorem test_decode_nop : decodeTableWord 32 0b011000_00000000000000000000000000 = some .nop := by decide
theorem test_decode_ori : decodeTableWord 32 0b011000_00011000110000000000000001 = some (.ori 0x630001#26) := by decide
theorem test_decode_add :
    decodeTableWord 32 0b011111_000110010000101_01000010100 = some (.add 0b000110010000101#15) := by decide
theorem test_decode_addRc :
    decodeTableWord 32 0b011111_000110010000101_01000010101 = some (.addRc 0b000110010000101#15) := by decide
theorem test_decode_branch : decodeTableWord 32 0b010010_11111111111111111111111100 = some (.branch 0x3FFFFFC#26) := by
  decide
theorem test_decode_bc : decodeTableWord 32 0b010000_01100000100000000000001000 = some (.bc 0x1820008#26) := by decide
theorem test_decode_bclr :
    decodeTableWord 32 0b010011_101000000000000_0000010000_1 = some (.bclr 0b101000000000000#15 1#1) := by decide
theorem test_decode_bcctr :
    decodeTableWord 32 0b010011_101000000000000_1000010000_0 = some (.bcctr 0b101000000000000#15 0#1) := by decide
theorem test_decode_rfid :
    decodeTableWord 32 0b010011_000000000000000_0000010010_0 = some (.rfid 0#15 0#1) := by decide

/-- `addo`, `rfi`, `hrfid`, `isync` and `sc` are no rows: DECODE of the word (notes/assumptions/13.md). -/
theorem test_decode_words_of_no_row :
    [0x7C000614#32, 0x4C000064#32, 0x4C000224#32, 0x4C00012C#32, 0x44000002#32].all
      (fun w => decide (decode (.word w) = .decode w 0#6)) = true := by decide
theorem test_decode_too_wide :
    decodeTableWord 48 0x20000000000 = none ∧ decodeTableWord 32 0x100000000 = none := by decide
/-- The encodings of 95_test_vectors.md, 4.6 and P3. -/
theorem test_encode_requests :
    encode (.decode 0x7C642A14#32 0x3F#6) = .request 0x03F7C642A14#41 ∧
    encode (.rotmask 62#32 1#6) = .request 0x1410000003E#41 ∧
    encode (.isBranch 0x4B13#32 0#6) = .request 0x0C000004B13#41 := by decide

/-! ## The example configuration (95_test_vectors.md, section 2) -/

/-- A pattern with one handler of each kind. -/
def single (value id name : Nat) : Pattern := ⟨value, 0, id, id, id, id, name, name⟩

/-- A pattern with a pair of handlers whose JIT ids are the interpreter ids. -/
def paired (value magn ip irc np nrc : Nat) : Pattern := ⟨value, magn, ip, irc, ip, irc, np, nrc⟩

def saturatedGroup (e : Pattern) : Group := ⟨0, 0, 11, [e]⟩
def addGroup (es : List Pattern) : Group := ⟨31, 10, 1, es⟩
def addPattern : Pattern := paired 0x10A 0 9 10 7 8

def exampleNames : List (Nat × String) :=
  [(0, "invalid"), (1, "addi"), (2, "ori"), (3, "b"), (4, "bc"), (5, "rlwinm"), (6, "rlwinm."), (7, "add"),
    (8, "add."), (9, "or"), (10, "or.")] ++
  [(11, "divw"), (12, "divw."), (13, "bclr"), (14, "bcctr"), (15, "rfid"), (16, "isync"), (17, "fdiv"),
    (18, "fdiv."), (19, "ld"), (20, "ldu"), (21, "lwa")]

def withGroups (groups : List Group) : Params := ⟨5, 5, 5, groups, exampleNames, .requireEqual, .lastWins⟩

/-- `EX`. -/
def exampleParams : Params := withGroups <|
  [saturatedGroup (single 14 3 1), saturatedGroup (single 24 4 2), saturatedGroup (single 18 5 3),
    saturatedGroup (single 16 6 4), ⟨21, 0, 0, [paired 0 0 7 8 5 6]⟩] ++
  [addGroup [addPattern, paired 0x1BC 0 11 12 9 10, paired 0x1EB 0 1 1 11 12],
    ⟨19, 10, 1, [single 0x010 13 13, single 0x210 14 14, single 0x012 15 15, single 0x096 16 16]⟩,
    ⟨63, 10, 1, [paired 0x12 5 17 18 17 18]⟩, ⟨58, 2, 0, [single 0 19 19, single 1 20 20, single 2 21 21]⟩]

theorem test_example_wf : paramsWf exampleParams = true := by decide +kernel
theorem test_example_conforms : checkW10 exampleParams = true ∧ checkW11 exampleParams = true := by decide +kernel

/-- `EX` has one id named `invalid` (10_state.md R24); with a second it passes W1 to W9 and is still not elaborated
(43_table_set.md R85). -/
theorem test_example_elaborates :
    elaborates exampleParams = true ∧
    (let p := { exampleParams with nameStr := exampleNames ++ [(22, "invalid")] }
     paramsWf p = true ∧ elaborates p = false) := by decide +kernel

/-- Section 4.3: word, index, interpreter id, name id. -/
theorem test_example_entries :
    [(0x60630000#32, 0x00018#17, 4, 2), (0x38600005#32, 0x0014E#17, 3, 1), (0x7C642A14#32, 0x0851F#17, 9, 7),
      (0x7C642A15#32, 0x0855F#17, 10, 8), (0x7C642E14#32, 0x1851F#17, 0, 0), (0x7C641B79#32, 0x0DE5F#17, 12, 10),
      (0x7C642BD7#32, 0x0F5DF#17, 1, 12), (0x4E800421#32, 0x10853#17, 14, 14), (0x5483063F#32, 0x18FD5#17, 8, 6),
      (0xE8610009#32, 0x0027A#17, 20, 20), (0xE861000A#32, 0x002BA#17, 21, 21), (0x44000002#32, 0x00091#17, 0, 0)].all
      (fun v => decide (indexOf v.1 = v.2.1 ∧ (built exampleParams v.2.1).interp = v.2.2.1 ∧
        (built exampleParams v.2.1).name = v.2.2.2)) = true := by decide +kernel

/-- Section 3: indices and counts of single patterns. -/
theorem test_expansions :
    (List.range 2).map (expand (addGroup []) addPattern) = [0x0851F#17, 0x0855F#17] ∧
    expansions ⟨63, 10, 1, []⟩ (paired 0x12 5 17 18 17 18) = 64 ∧
    expand ⟨63, 10, 1, []⟩ (paired 0x12 5 17 18 17 18) 63 = 0x1F97F#17 ∧
    expansions ⟨4, 4, 3, []⟩ (paired 5 1 3 4 0 0) = 256 ∧
    expand ⟨4, 4, 3, []⟩ (paired 5 1 3 4 0 0) 255 = 0x1FBC4#17 ∧
    expand (saturatedGroup addPattern) (single 4 3 0) 2047 = 0x1FFC4#17 := by decide

/-- Section 3: the configurations refused by W6, W4, W2, W3 and W7. -/
theorem test_ill_formed_configurations :
    [saturatedGroup (paired 4 0 3 7 0 0), addGroup [single 0x400 3 0], ⟨31, 10, 2, [single 0 3 0]⟩,
      addGroup [paired 0x10A 11 3 3 0 0], addGroup [single 0x10A 2 0]].all
      (fun g => !paramsWf (withGroups [g])) = true := by decide +kernel

/-- P4: the order of two overlapping patterns under `last_wins`. -/
theorem test_overlap_order :
    let sat := saturatedGroup (single 31 1 11)
    (built (withGroups [addGroup [addPattern], sat]) 0x0851F#17).interp = 1 ∧
    (built (withGroups [sat, addGroup [addPattern]]) 0x0851F#17).interp = 9 ∧
    (built (withGroups [sat, addGroup [addPattern]]) 0x1851F#17).interp = 1 := by decide +kernel

/-! ## Vectors of the units that read no table -/

/-- Section 4.1. -/
theorem test_masks :
    [(0#6, 0#6, 0x8000000000000000#64), (0#6, 63#6, 0xFFFFFFFFFFFFFFFF#64), (63#6, 63#6, 0x1#64),
      (63#6, 0#6, 0x8000000000000001#64), (1#6, 0#6, 0xFFFFFFFFFFFFFFFF#64), (60#6, 3#6, 0xF00000000000000F#64),
      (10#6, 20#6, 0x003FF80000000000#64), (31#6, 32#6, 0x0000000180000000#64), (0#6, 62#6, 0xFFFFFFFFFFFFFFFE#64),
      (33#6, 62#6, 0x000000007FFFFFFE#64)].all (fun v => decide (rotateMask v.1 v.2.1 = v.2.2)) = true := by decide

/-- Section 4.2. -/
theorem test_indices :
    [(0x00000000#32, 0x00000#17), (0xFFFFFFFF#32, 0x1FFFF#17), (0x60000000#32, 0x00018#17), (0x80000000#32, 0x00020#17),
      (0x000007FF#32, 0x1FFC0#17), (0x03FFF800#32, 0x00000#17), (0x12345678#32, 0x19E04#17),
      (0xDEADBEEF#32, 0x1BBF7#17)].all (fun v => decide (indexOf v.1 = v.2)) = true := by decide

/-- Section 4.5. -/
theorem test_branch_verdicts :
    [0x00012#17, 0x1FF12#17, 0x00812#17, 0x00010#17, 0x1FFD0#17, 0x00813#17, 0x00853#17, 0x10813#17, 0x10853#17,
      0x00913#17, 0x00953#17].all isBranchIndex = true ∧
    [0x00013#17, 0x01093#17, 0x01913#17, 0x04B13#17, 0x08913#17, 0x00893#17, 0x00993#17, 0x00833#17, 0x00011#17,
      0x00091#17, 0x0001F#17, 0x00000#17, 0x1FFFF#17].all (fun i => !isBranchIndex i) = true := by decide

/-! ## Single steps on small states -/

/-- A port that carries a request. -/
def carrying (p : Presented) : Port := { pending := some p, response := none, marks := none }

/-- READY, three entries of each table listed, one port. -/
def smallReady : State :=
  { State.resetWith exampleParams 1 with
    phase := .ready
    it := ⟨[(0x00018, 4), (0x00813, 13), (0x0851F, 9), (0x0855F, 10)]⟩
    jt := ⟨[(0x00018, 4), (0x00813, 13), (0x0851F, 9), (0x0855F, 10)]⟩
    nt := ⟨[(0x00018, 2), (0x00813, 13), (0x0851F, 7), (0x0855F, 8)]⟩ }

/-- BUILDING, one port that carries a request. -/
def smallBuilding : State :=
  { State.resetWith exampleParams 1 with ports := [carrying (.word nopWord)] }

/-- The first port and the refusal mark after a step. -/
def portAfter : Host.Outcome State Fault Refusal → Option (Option Port × Bool)
  | .next t => some (t.ports[0]?, t.refusalMark)
  | .fault _ => none
  | .refused _ => none

/-- A response, and no refusal. -/
def gave (v : Data) : Option (Option Port × Bool) := some (some ⟨none, some v, none⟩, false)

/-- A refusal. -/
def turned : Option (Option Port × Bool) := some (some ⟨none, none, none⟩, true)

/-- Section 4.6, read off the tables of `smallReady`, which are entries of `EX`. -/
theorem test_exec_decode :
    portAfter (exec (.decode 0x60000000#32 0#6) smallReady) = gave 2 ∧
    portAfter (exec (.decode 0x60630000#32 0x3F#6) smallReady) = gave 4 := by decide
theorem test_exec_decode_held : portAfter (exec (.decode 0x60000000#32 0#6) smallBuilding) =
    some (some (carrying (.word nopWord)), false) := by decide
theorem test_exec_decodeJit : portAfter (exec (.decodeJit 0x60000000#32 0#6) smallReady) = gave 4 := by decide
theorem test_exec_decodeName : portAfter (exec (.decodeName 0x60000000#32 0#6) smallReady) = gave 2 := by decide
theorem test_exec_isBranch :
    portAfter (exec (.isBranch 0x813#32 0#6) smallBuilding) = gave 1 ∧
    portAfter (exec (.isBranch 0x4B13#32 0#6) smallBuilding) = gave 0 := by decide
theorem test_exec_isBranch_refused : portAfter (exec (.isBranch 0x4E800020#32 0#6) smallReady) = turned := by decide
theorem test_exec_index : portAfter (exec (.index 0x4E800020#32 0#6) smallBuilding) = gave 0x813 := by decide
theorem test_exec_rotmask : portAfter (exec (.rotmask 56#32 63#6) smallBuilding) = gave 0xFF := by decide
theorem test_exec_rotmask_refused : portAfter (exec (.rotmask 64#32 0#6) smallBuilding) = turned := by decide
theorem test_exec_tableRead :
    portAfter (exec (.tableRead 0x18#32 0#6) smallReady) = gave 4 ∧
    portAfter (exec (.tableRead 0x851F#32 1#6) smallReady) = gave 9 ∧
    portAfter (exec (.tableRead 0x851F#32 2#6) smallReady) = gave 7 := by decide
theorem test_exec_tableRead_refused :
    portAfter (exec (.tableRead 0x851F#32 3#6) smallReady) = turned ∧
    portAfter (exec (.tableRead 0x20000#32 0#6) smallBuilding) = turned := by decide
theorem test_exec_reserved : portAfter (exec (.reserved 0#32 0#6) smallBuilding) = turned := by decide
/-- That a bare word is answered like this is the model's choice (notes/assumptions/12.md); the numbers are 4.3's. -/
theorem test_exec_words :
    portAfter (exec .nop smallReady) = some (some ⟨none, some 2, some ⟨0x18#17, false, 4, 2⟩⟩, false) ∧
    portAfter (exec (.add 0#15) smallReady) = some (some ⟨none, some 9, some ⟨0x851F#17, false, 9, 7⟩⟩, false) ∧
    portAfter (exec (.bclr 0#15 0#1) smallReady) = some (some ⟨none, some 13, some ⟨0x813#17, true, 13, 13⟩⟩, false) := by
  decide
/-- The step after `withFetchWord` answers in any phase what reads no table. -/
theorem test_step_fetch_word : portAfter (step (smallBuilding.withFetchWord 48 0x17F00000038)) = gave 0xFF := by decide
/-- The lowest port that can be answered goes before the build (P5: port 0 held, port 1 answered). -/
theorem test_step_default :
    (State.defaultMove { smallBuilding with ports := [carrying (.request 0x0007C642A14#41), carrying (.request 0x1007C642A14#41)] }) =
      some (.serve 1) ∧ smallBuilding.defaultMove = some .build ∧ smallReady.defaultMove = none := by decide
/-- A move of the build fills one entry with the sentinels. -/
theorem test_step_build : smallBuilding.buildMove.it.read 0#17 = some 0 ∧ smallBuilding.buildMove.pos = .sentinelFill 1 := by
  decide

/-- P4 under `refuse`: check W8 refuses the overlap. -/
theorem test_overlap_refused :
    checkW8 { withGroups [addGroup [addPattern], saturatedGroup (single 31 1 11)] with overlap := .refuse } ≠ true := by
  intro h
  simp only [checkW8, List.all_eq_true, decide_eq_true_eq] at h
  exact absurd (h 0x0851F (List.mem_range.2 (by decide))) (by decide +kernel)

/-! ## Witnesses: for each statement with hypotheses, states and operands that meet them together -/

/-- `EX` as built, with one idle port. -/
def ready : State := builtState exampleParams [Port.idle]

theorem ready_inv : ready.Inv := builtState_inv test_example_wf _

theorem ready_reads (idx : DecodeIndex) :
    ready.it.read idx = some (built exampleParams idx).interp ∧ ready.jt.read idx = some (built exampleParams idx).jit ∧
    ready.nt.read idx = some (built exampleParams idx).name :=
  ⟨read_tabulate _ idx, read_tabulate _ idx, read_tabulate _ idx⟩

/-- Every READY entry has some value, whatever the word: the hypotheses `read … = some _` of the answers. -/
theorem ready_has_entries (idx : DecodeIndex) :
    (∃ h, ready.it.read idx = some h) ∧ (∃ j, ready.jt.read idx = some j) ∧ ∃ n, ready.nt.read idx = some n :=
  ⟨⟨_, (ready_reads idx).1⟩, ⟨_, (ready_reads idx).2.1⟩, ⟨_, (ready_reads idx).2.2⟩⟩

/-- Right after reset, with `EX` and one idle port. -/
def start : State := State.resetWith exampleParams 1

theorem start_inv : start.Inv := ⟨test_example_wf, ⟨empty_wf, empty_wf, empty_wf⟩, by simp [start, State.resetWith,
  State.tablesAsBuilt, tableSize]⟩

theorem witness_DecodeOfEncode : (Instr.ori 1#26).canonical = true ∧ Instr.nop.canonical = true := by decide

theorem witness_StepServesPendingRequest :
    let s : State := { start with ports := [carrying (.request 0x1004E800020#41)], agenda := [.serve 0] }
    s.agenda = .serve 0 :: [] ∧ s.pendingAt 0 = some (.request 0x1004E800020#41) := by decide

theorem witness_StepRunsFetchWord :
    0 < start.ports.length ∧ presentBits 32 0x7C642A14 = .ok (.word 0x7C642A14#32) ∧
    presentBits 48 0x1FFFFFFFFFF = .ok (.request 0x1FFFFFFFFFF#41) :=
  ⟨by decide, rfl, rfl⟩

theorem witness_RotmaskCommand : (64#32 : OperandA) >>> 6 ≠ 0#32 ∧ (63#32 : OperandA) >>> 6 = 0#32 := by decide

theorem witness_RotateMaskSetForm : (63 : Nat) < 64 ∧ (0#6 : BitVec 6) < 1#6 ∧ (62#6 : BitVec 6) < 63#6 := by decide

/-- The refusal at the first index out of range; true at the last `bc` index; false at the last index. -/
theorem witness_IsBranchCommand :
    (0x20000#32 : OperandA) >>> 17 ≠ 0#32 ∧
    ((0x1FFD0#32 : OperandA) >>> 17 = 0#32 ∧ (((0x1FFD0#32 : OperandA).extractLsb' 0 17).extractLsb' 0 6).toNat = 16) ∧
    (0x1FFFF#32 : OperandA) >>> 17 = 0#32 ∧ isBranchIndex ((0x1FFFF#32 : OperandA).extractLsb' 0 17) = false := by decide

/-- `sc` is not in `EX`: no pattern covers its index. -/
theorem sc_untargeted : ∀ ge ∈ order ready.params, covers ge.1 ge.2 (indexOf 0x44000002#32) = false := by decide +kernel

/-- One word of each of the five pairs, and `rfi`, which is none of them. -/
theorem witness_BranchWords :
    (0x4BFFFFFC#32 : InstrWord) &&& 0xFC000000#32 = 0x48000000#32 ∧
    (0x4182FFF8#32 : InstrWord) &&& 0xFC000000#32 = 0x40000000#32 ∧
    (0x4E800021#32 : InstrWord) &&& 0xFC0007FE#32 = 0x4C000020#32 ∧
    (0x4E800421#32 : InstrWord) &&& 0xFC0007FE#32 = 0x4C000420#32 ∧
    (0x4C000024#32 : InstrWord) &&& 0xFC0007FE#32 = 0x4C000024#32 ∧
    (let w : InstrWord := 0x4C000064#32
     ¬ (w &&& 0xFC000000#32 = 0x48000000#32 ∨ w &&& 0xFC000000#32 = 0x40000000#32 ∨ w &&& 0xFC0007FE#32 = 0x4C000020#32 ∨
      w &&& 0xFC0007FE#32 = 0x4C000420#32 ∨ w &&& 0xFC0007FE#32 = 0x4C000024#32)) := by decide

/-- One witness for the hold, one for the fast path, one for the table's answer next to it, one for an untargeted word. -/
theorem witness_DecodeCommand :
    start.phase = .building ∧ ready.phase = .ready ∧ (0x60000001#32 : OperandA) ≠ 0x60000000#32 ∧
    (∃ h, ready.it.read (indexOf 0x60000001#32) = some h) ∧ ready.Inv ∧ (0x44000002#32 : OperandA) ≠ 0x60000000#32 ∧
    ∀ ge ∈ order ready.params, covers ge.1 ge.2 (indexOf 0x44000002#32) = false :=
  ⟨rfl, rfl, by decide, (ready_has_entries _).1, ready_inv, by decide, sc_untargeted⟩

theorem witness_DecodeJitCommand :
    start.phase = .building ∧ ready.phase = .ready ∧ (∃ j, ready.jt.read (indexOf 0x60000000#32) = some j) ∧ ready.Inv ∧
    ∀ ge ∈ order ready.params, covers ge.1 ge.2 (indexOf 0x44000002#32) = false :=
  ⟨rfl, rfl, (ready_has_entries _).2.1, ready_inv, sc_untargeted⟩

theorem witness_DecodeNameCommand :
    start.phase = .building ∧ ready.phase = .ready ∧ (∃ n, ready.nt.read (indexOf 0x60000000#32) = some n) ∧ ready.Inv ∧
    ∀ ge ∈ order ready.params, covers ge.1 ge.2 (indexOf 0x44000002#32) = false :=
  ⟨rfl, rfl, (ready_has_entries _).2.2, ready_inv, sc_untargeted⟩

/-- The operands of TABLE_READ at the edges (inside with each table, and each of the three ways out), and a state of each
phase in which they are met. -/
theorem witness_TableReadCommand :
    (let inside : OperandA → OperandB → Bool := fun a b =>
      decide (a >>> 17 = 0#32 ∧ b >>> 2 = 0#6 ∧ b.extractLsb' 0 2 ≠ 3#2)
    inside 0x1FFFF#32 0#6 = true ∧ inside 0x1FFFF#32 1#6 = true ∧ inside 0x1FFFF#32 2#6 = true ∧
    inside 0x20000#32 0#6 = false ∧ inside 0#32 3#6 = false ∧ inside 0#32 4#6 = false) ∧
    start.phase = .building ∧ ready.phase = .ready ∧ (∃ h, ready.it.read 0x1FFFF#17 = some h) ∧
    (∃ j, ready.jt.read 0x1FFFF#17 = some j) ∧ ∃ n, ready.nt.read 0x1FFFF#17 = some n :=
  ⟨by decide, rfl, rfl, ready_has_entries _⟩

theorem witness_InRangeAnsweredOnceReady : ready.phase = .ready ∧ (Instr.tableRead 0x1FFFF#32 2#6).inRange = true :=
  ⟨rfl, by decide⟩

theorem witness_PhaseGating :
    start.phase = .building ∧ (ready.phase = .ready ∧ ready.Inv) ∧ indexInRange 0x1FFFF#32 = true ∧
    selectOperand 2#6 = some .nt ∧ mbInRange 63#32 = true :=
  ⟨rfl, ⟨rfl, ready_inv⟩, by decide, by decide, by decide⟩

theorem witness_FastPathDivergence :
    ready.Inv ∧ ready.phase = .ready ∧ (0x60630000#32 : OperandA) ≠ 0x60000000#32 ∧
    indexOf 0x60630000#32 = indexOf 0x60000000#32 :=
  ⟨ready_inv, rfl, by decide, by decide⟩

/-- `add 3,4,5` of `EX`: five patterns before its own, ten after. -/
theorem witness_PatternWordsDecodeToTheirHandlers :
    ready.Inv ∧ ready.phase = .ready ∧
    order ready.params = (order exampleParams).take 5 ++
      ((order exampleParams)[5]'(by decide)) :: (order exampleParams).drop 6 ∧
    ((order exampleParams)[5]'(by decide)).1.sh < 11 ∧
    coversNormal ((order exampleParams)[5]'(by decide)).1 ((order exampleParams)[5]'(by decide)).2
      (indexOf 0x7C642A14#32) = true ∧
    (∀ ge ∈ (order exampleParams).drop 6, covers ge.1 ge.2 (indexOf 0x7C642A14#32) = false) ∧
    (0x7C642A14#32 : OperandA) ≠ 0x60000000#32 :=
  ⟨ready_inv, rfl, by decide, by decide, by decide +kernel, by decide +kernel, by decide⟩

theorem witness_ConformingConfigurationDecodes :
    ready.Inv ∧ ready.phase = .ready ∧ checkW10 ready.params = true ∧ checkW11 ready.params = true :=
  ⟨ready_inv, rfl, test_example_conforms.1, test_example_conforms.2⟩

theorem witness_NopWordAnswer :
    ready.phase = .ready ∧ (∃ j, ready.jt.read 0x18#17 = some j) ∧ ∃ n, ready.nt.read 0x18#17 = some n :=
  ⟨rfl, (ready_has_entries _).2⟩

/-- At the indices of `ori` with a bit set, of `add` and of `add.`. -/
theorem witness_ConfiguredWordsAnswer :
    ready.phase = .ready ∧ (1#26 : BitVec 26) ≠ 0#26 ∧
    ∀ idx ∈ [((1#26 : BitVec 26).extractLsb' 0 11 ++ 24#6 : BitVec 17), 0x0851F#17, 0x0855F#17],
      (∃ h, ready.it.read idx = some h) ∧ (∃ j, ready.jt.read idx = some j) ∧ ∃ n, ready.nt.read idx = some n :=
  ⟨rfl, by decide, fun idx _ => ready_has_entries idx⟩

theorem witness_BranchWordsAnswer :
    ready.phase = .ready ∧
    ∀ idx ∈ [0x1FF12#17, 0x00210#17, 0x00853#17, 0x10813#17, 0x00913#17],
      (∃ h, ready.it.read idx = some h) ∧ (∃ j, ready.jt.read idx = some j) ∧ ∃ n, ready.nt.read idx = some n :=
  ⟨rfl, fun idx _ => ready_has_entries idx⟩

theorem witness_BareWordsHeldWhileBuilding : start.phase = .building := rfl

/-- One request for each clause: the reserved code; each of the four ranges; a held DECODE; an INDEX. -/
theorem witness_ChecksInOrder :
    reqOp 0x1C000000000#41 = 7#3 ∧
    (∀ req ∈ [0x0C000020000#41, 0x18000020000#41, 0x18300000000#41, 0x18400000000#41, 0x14000000040#41],
      reqOp req ≠ 7#3 ∧ outsideRange req) ∧
    (reqOp 0x182_0001FFFF#41 ≠ 7#3 ∧ ¬ outsideRange 0x182_0001FFFF#41 ∧ readsTable 0x182_0001FFFF#41 ∧
      start.phase = .building) ∧
    reqOp 0x1004E800020#41 ≠ 7#3 ∧ ¬ outsideRange 0x1004E800020#41 ∧
      ¬ (readsTable 0x1004E800020#41 ∧ start.phase = .building) := by
  unfold outsideRange readsTable
  refine ⟨by decide, fun req h => ?_, by decide, by decide, by decide, by decide⟩
  simp only [List.mem_cons, List.not_mem_nil, or_false] at h
  rcases h with rfl | rfl | rfl | rfl | rfl <;> decide

theorem witness_RefusedRequestLeavesItsPort :
    (Instr.rotmask 64#32 0#6).inRange = false ∧ (Instr.reserved 0#32 0#6).inRange = false := by decide

theorem witness_RefusalMarkNeverCleared :
    let s : State := { start with refusalMark := true, agenda := [.reset] }
    (∃ t, step s = .next t) ∧ s.refusalMark = true :=
  ⟨⟨_, rfl⟩, rfl⟩

theorem witness_CommandsWriteOnlyTheirPort :
    let s : State := { start with ports := [Port.idle, carrying (.word nopWord)] }
    (∃ t, exec (.index 0#32 0#6) s = .next t) ∧ (1 : Nat) ≠ s.active :=
  ⟨⟨_, rfl⟩, by decide⟩

/-- Two READY states with the same tables that differ in their ports, in the active port and in the refusal mark. -/
theorem witness_AnswerDependsOnCommandAndTables :
    let s' : State := { builtState exampleParams [Port.idle, carrying (.word nopWord)] with
      active := 1, refusalMark := true }
    ready.phase = .ready ∧ s'.phase = .ready ∧ ready.params = s'.params ∧ ready.it = s'.it ∧ ready.jt = s'.jt ∧
    ready.nt = s'.nt ∧ ready.active < ready.ports.length ∧ s'.active < s'.ports.length ∧
    (∃ t, exec (.decode 0#32 0#6) ready = .next t) ∧ ∃ t', exec (.decode 0#32 0#6) s' = .next t' :=
  ⟨rfl, rfl, rfl, rfl, rfl, rfl, Nat.zero_lt_one, Nat.one_lt_two, ⟨_, rfl⟩, ⟨_, rfl⟩⟩

theorem witness_PortsDoNotInteract :
    let s : State := { start with ports := [carrying (.request 0x1004E800020#41), carrying (.request 0x1C000000000#41)] }
    (0 : Nat) ≠ 1 ∧ ∃ t t' u u', s.serve 0 = .next t ∧ t.serve 1 = .next t' ∧ s.serve 1 = .next u ∧
      u.serve 0 = .next u' :=
  ⟨by decide, _, _, _, _, rfl, rfl, rfl, rfl⟩

/-- A normal pattern at the edges of the checks: a full field, the whole field below it, no field, magnitude bits. -/
theorem witness_normal_patterns :
    normalOk (addGroup []) addPattern ∧ normalOk ⟨63, 1, 10, []⟩ (single 1 3 0) ∧ normalOk ⟨21, 0, 0, []⟩ (single 0 7 5) ∧
    normalOk ⟨63, 10, 1, []⟩ (paired 0x12 5 17 18 17 18) := by
  unfold normalOk
  decide

theorem witness_CoverByMatchAndMask : normalOk (addGroup []) addPattern := witness_normal_patterns.1

/-- The clause about covered indices is met at both indices of `add`. -/
theorem witness_CoverCount :
    normalOk (addGroup []) addPattern ∧ coversNormal (addGroup []) addPattern 0x0851F#17 = true ∧
    coversNormal (addGroup []) addPattern 0x0855F#17 = true :=
  ⟨witness_normal_patterns.1, by decide, by decide⟩

theorem witness_EnumerationIsTheCover : normalOk ⟨63, 10, 1, []⟩ (paired 0x12 5 17 18 17 18) :=
  witness_normal_patterns.2.2.2

theorem witness_SaturatedCover : saturatedOk ⟨0, 0, 11, []⟩ (single 63 3 1) ∧ saturatedOk ⟨0, 0, 40, []⟩ (single 0 3 1) := by
  unfold saturatedOk
  decide

theorem witness_BuildVisitsEachCoveredIndexOnce :
    normalOk ⟨63, 1, 10, []⟩ (single 1 3 0) ∧ saturatedOk ⟨0, 0, 11, []⟩ (single 63 3 1) :=
  ⟨witness_normal_patterns.2.1, witness_SaturatedCover.1⟩

/-- `ldu` of a group with `sh = 0`: an odd value, and an even one. -/
theorem witness_HandlersChosenByBitZero :
    let g : Group := ⟨58, 2, 0, []⟩
    (normalOk g (single 1 20 20) ∧ g.sh = 0 ∧ (single 1 20 20).magn < g.count ∧ covers g (single 1 20 20) 0x0027A#17 = true) ∧
    normalOk g (single 2 21 21) ∧ covers g (single 2 21 21) 0x002BA#17 = true := by
  unfold normalOk
  decide

theorem witness_SaturatedPatternsGiveOneTriple :
    paramsWf exampleParams = true ∧ exampleParams.saturatedRc = .requireEqual ∧
    saturatedGroup (single 24 4 2) ∈ exampleParams.groups ∧
    single 24 4 2 ∈ (saturatedGroup (single 24 4 2)).entries ∧ 11 ≤ (saturatedGroup (single 24 4 2)).sh :=
  ⟨test_example_wf, rfl, by decide, by decide, by decide⟩

/-- Just out of each bound: a field of 12 bits in a group without patterns, the value, the magnitude, the saturated value. -/
theorem witness_IllFittingPatternsRefused :
    (let g : Group := ⟨31, 10, 2, []⟩
     g ∈ (withGroups [g]).groups ∧ g.sh < 11 ∧ 11 < g.count + g.sh) ∧
    (∀ e ∈ [single 0x400 3 0, paired 0 11 3 3 0 0],
      addGroup [e] ∈ (withGroups [addGroup [e]]).groups ∧ e ∈ (addGroup [e]).entries ∧ (addGroup [e]).sh < 11 ∧
      (2 ^ ((addGroup [e]).count - e.magn) ≤ e.value ∨ (addGroup [e]).count < e.magn)) ∧
    (let g := saturatedGroup (single 64 3 0)
     g ∈ (withGroups [g]).groups ∧ single 64 3 0 ∈ g.entries ∧ 11 ≤ g.sh ∧ 64 ≤ (single 64 3 0).value) := by decide

def orPattern : Pattern := paired 0x1BC 0 11 12 9 10

/-- Two configurations under `refuse` whose patterns do not overlap: the groups stand in opposite orders, and so do the
patterns of one group. -/
def apart : Params :=
  { withGroups [saturatedGroup (single 14 3 1), addGroup [addPattern, orPattern]] with overlap := .refuse }

def apartReversed : Params :=
  { withGroups [addGroup [orPattern, addPattern], saturatedGroup (single 14 3 1)] with overlap := .refuse }

theorem apart_no_overlap : checkW8 apart = true := by
  simp only [checkW8, apart, List.all_eq_true]
  intro i _
  generalize BitVec.ofNat 17 i = idx
  have hs := covers_saturated (g := saturatedGroup (single 14 3 1)) (single 14 3 1) (by decide) idx
  have hn : ∀ e, covers (addGroup [addPattern, orPattern]) e idx = true ↔ _ := fun e =>
    covers_normal (g := addGroup [addPattern, orPattern]) e (by decide) idx ▸
      coversNormal_iff (addGroup [addPattern, orPattern]) e idx
  have ha := hn addPattern
  have ho := hn orPattern
  simp only [single, addGroup, addPattern, orPattern, paired] at hs ha ho
  have hl : (([(saturatedGroup (single 14 3 1), single 14 3 1), (addGroup [addPattern, orPattern], addPattern),
      (addGroup [addPattern, orPattern], orPattern)] :
      List (Group × Pattern)).filter fun ge => covers ge.1 ge.2 idx).length ≤ 1 := by
    simp only [List.filter_cons, List.filter_nil, single, addGroup, addPattern, orPattern, paired]
    split <;> split <;> split <;> simp_all
  exact decide_eq_true hl

theorem wf_under_refuse {p : Params} (h8 : checkW8 p = true) (h : paramsWf { p with overlap := .lastWins } = true) :
    paramsWf p = true := by
  simp only [paramsWf, Bool.and_eq_true] at h ⊢
  exact ⟨⟨h.1.1, h8⟩, h.2⟩

theorem apart_wf : paramsWf apart = true := wf_under_refuse apart_no_overlap (by decide +kernel)

/-- The two cases: an index that a pattern of `EX` covers, and one that none does. -/
theorem witness_BuiltByLastCoveringPattern :
    ready.Inv ∧ ready.phase = .ready ∧ lastCover ready.params 0x0851F#17 = some (addGroup
      [addPattern, orPattern, paired 0x1EB 0 1 1 11 12], addPattern) ∧
    lastCover ready.params 0#17 = none ∧ paramsWf apart = true ∧ apart.overlap = .refuse :=
  ⟨ready_inv, rfl, by decide +kernel, by decide +kernel, apart_wf, rfl⟩

theorem witness_OrderIrrelevantWithoutOverlap :
    paramsWf apart = true ∧ apart.overlap = .refuse ∧
    ((order apart).map fun ge => (ge.1.mainOp, ge.1.count, ge.1.sh, ge.2)).Perm
      ((order apartReversed).map fun ge => (ge.1.mainOp, ge.1.count, ge.1.sh, ge.2)) :=
  ⟨apart_wf, rfl, by decide⟩

theorem witness_BuiltIdsFitTheirTables : paramsWf exampleParams = true := test_example_wf

/-- Index 0 is covered by nothing in `EX` and its name is `NAME_INVALID`. -/
theorem witness_EveryIndexIsNamed :
    paramsWf exampleParams = true ∧ elaborates exampleParams = true ∧ (built exampleParams 0#17).name = 0 ∧
    ∀ ge ∈ order exampleParams, covers ge.1 ge.2 0#17 = false :=
  ⟨test_example_wf, test_example_elaborates.1, by decide +kernel, by decide +kernel⟩

/-- The first and the last index of the sentinel fill. -/
theorem witness_SentinelFillWritesOneIndex :
    (start.phase = .building ∧ start.pos = .sentinelFill 0 ∧ 0 + 1 < 131072) ∧
    (let s : State := { start with pos := .sentinelFill 131071 }
     s.phase = .building ∧ s.pos = .sentinelFill 131071 ∧ 131071 < 131072 ∧ 131071 + 1 = 131072) :=
  ⟨⟨rfl, rfl, by decide⟩, rfl, rfl, by decide, by decide⟩

/-- The last index of a saturated pattern, the first of two of a normal one, and the last index of the last pattern. -/
theorem witness_FillWritesOneCoveredIndex :
    (let s : State := { start with pos := .fill 0 2047 }
     s.phase = .building ∧ s.pos = .fill 0 2047 ∧
     (order s.params)[0]? = some (saturatedGroup (single 14 3 1), single 14 3 1) ∧
     saturatedOk (saturatedGroup (single 14 3 1)) (single 14 3 1) ∧
     2047 < expansions (saturatedGroup (single 14 3 1)) (single 14 3 1) ∧
     2047 + 1 = expansions (saturatedGroup (single 14 3 1)) (single 14 3 1)) ∧
    (let s : State := { start with pos := .fill 5 0 }
     let g := addGroup [addPattern, orPattern, paired 0x1EB 0 1 1 11 12]
     s.phase = .building ∧ s.pos = .fill 5 0 ∧ (order s.params)[5]? = some (g, addPattern) ∧ normalOk g addPattern ∧
     0 + 1 < expansions g addPattern) ∧
    (let s : State := { start with pos := .fill 15 511 }
     let g : Group := ⟨58, 2, 0, [single 0 19 19, single 1 20 20, single 2 21 21]⟩
     s.phase = .building ∧ s.pos = .fill 15 511 ∧ (order s.params)[15]? = some (g, single 2 21 21) ∧
     normalOk g (single 2 21 21) ∧ 511 + 1 = expansions g (single 2 21 21)) := by
  unfold saturatedOk normalOk
  exact ⟨⟨rfl, rfl, rfl, by decide, by decide, by decide⟩, ⟨rfl, rfl, rfl, by decide, by decide⟩, rfl, rfl, rfl, by decide,
    by decide⟩

/-- Publication past the last of `EX`'s patterns, and a reset of a READY block. -/
theorem witness_OnlyTheBuildPublishes :
    (let s : State := { start with pos := .fill 16 0 }
     ∃ t, s.perform .build = .next t ∧ t.phase ≠ s.phase) ∧
    ∃ t, ready.perform .reset = .next t ∧ t.phase ≠ ready.phase := by
  refine ⟨⟨_, rfl, ?_⟩, _, rfl, ?_⟩
  · decide +kernel
  · exact fun h => Phase.noConfusion h

theorem witness_PublishedTablesFrozen :
    let s : State := { ready with agenda := [.build] }
    s.phase = .ready ∧ (∀ rest, s.agenda ≠ .reset :: rest) ∧ ∃ t, step s = .next t :=
  ⟨rfl, fun _ h => Move.noConfusion (List.cons.inj h).1, _, rfl⟩

theorem witness_ConfigurationNeverChanges : ∃ t, step start = .next t := ⟨_, rfl⟩

theorem witness_EveryStepKeepsTheTablesAsBuilt : start.Inv ∧ ∃ t, step start = .next t := ⟨start_inv, _, rfl⟩

theorem witness_TablesAsBuiltAtReset : paramsWf exampleParams = true := test_example_wf

theorem witness_BuildReachesReady : paramsWf exampleParams = true ∧ 0 < buildMoves exampleParams :=
  ⟨test_example_wf, Nat.succ_pos _⟩

/-- A held DECODE, the reserved code, and an idle port. -/
theorem witness_EveryRequestLeavesItsPort :
    let s : State := { start with ports :=
      [carrying (.request 0x0007C642A14#41), carrying (.request 0x1C000000000#41), Port.idle] }
    (s.Inv ∧ s.agenda = []) ∧
    (s.ports[0]? = some (carrying (.request 0x0007C642A14#41)) ∧
      (decode (.request 0x0007C642A14#41)).inRange = true) ∧
    (s.ports[1]? = some (carrying (.request 0x1C000000000#41)) ∧
      (decode (.request 0x1C000000000#41)).inRange = false) ∧
    s.ports[2]? = some Port.idle ∧ Port.idle.pending = none :=
  ⟨⟨⟨start_inv.params, start_inv.memories, start_inv.tables⟩, rfl⟩, ⟨rfl, by decide⟩, ⟨rfl, by decide⟩, rfl, rfl⟩

/-- Port 0 carries a DECODE that is held, port 1 an INDEX that is not. -/
theorem witness_AnswerableRequestGoesFirst :
    let s : State := { start with ports := [carrying (.request 0x0007C642A14#41), carrying (.request 0x1007C642A14#41)] }
    s.agenda = [] ∧ s.ports[1]? = some (carrying (.request 0x1007C642A14#41)) ∧
    (carrying (.request 0x1007C642A14#41)).pending = some (.request 0x1007C642A14#41) ∧
    s.answerable (carrying (.request 0x1007C642A14#41)) = true ∧
    s.ports[0]? = some (carrying (.request 0x0007C642A14#41)) ∧
    s.answerable (carrying (.request 0x0007C642A14#41)) = false := by decide

/-- Only a DECODE that is held. -/
theorem witness_QuietStepBringsReadyNearer :
    let s : State := { start with ports := [carrying (.request 0x0007C642A14#41)] }
    s.Inv ∧ s.agenda = [] ∧ s.phase = .building ∧ ∀ q ∈ s.ports, s.answerable q = false :=
  ⟨⟨start_inv.params, start_inv.memories, start_inv.tables⟩, rfl, rfl, by decide⟩

/-- A free port and a busy one. -/
theorem witness_RequestArrivesOnItsPort :
    let s : State := { start with ports := [Port.idle, carrying (.word nopWord)] }
    s.ports[0]? = some Port.idle ∧ Port.idle.pending = none ∧ s.ports[1]? = some (carrying (.word nopWord)) ∧
    (carrying (.word nopWord)).pending ≠ none := by decide

end Sys2Proof.Tests
end

section
/-!
An instruction in range, once READY, is answered (00_scope.md R15, 44_dispatcher.md R87). The range checks of
30_encoding.md R46 decide between an answer and a refusal, PHASE between an answer and a hold; whether the tables list
the entry that is read decides nothing (notes/assumptions/6.md).
-/

namespace Sys2Proof.Machine

/-! ## The commands with a range check, in range -/

theorem exec_isBranch_of_inRange {a : OperandA} (h : indexInRange a = true) (b : OperandB) (s : State) :
    exec (.isBranch a b) s = .next (s.respond (verdictData (isBranchIndex (indexOperand a)))) := by
  simp [exec, execIsBranch, h]

theorem exec_rotmask_of_inRange {a : OperandA} (h : mbInRange a = true) (b : OperandB) (s : State) :
    exec (.rotmask a b) s = .next (s.respond (rotateMask (mbOperand a) b)) := by
  simp [exec, execRotmask, h]

theorem exec_tableRead_of_inRange {a : OperandA} {b : OperandB} {sel : TableSel} (ha : indexInRange a = true)
    (hb : selectOperand b = some sel) (s : State) :
    exec (.tableRead a b) s = .next (s.respondWhenReady (s.entryData sel (indexOperand a))) := by
  simp [exec, execTableRead, ha, hb]

/-- The range check of TABLE_READ is the one of its index and the one of its table (30_encoding.md R46 (b), (c)). -/
theorem inRange_tableRead_iff {a : OperandA} {b : OperandB} :
    (Instr.tableRead a b).inRange = true ↔ indexInRange a = true ∧ ∃ sel, selectOperand b = some sel := by
  rw [Instr.inRange, Bool.and_eq_true, Option.isSome_iff_exists]

/-! ## The answer among the outcomes of 60_exceptions.md R97 -/

/-- The active port holds a response and carries no request any more, and nothing else changed. -/
def answerOf (s t : State) : Prop :=
  ∃ v m, t = s.setPort { pending := none, response := some v, marks := m }

theorem answerOf_respond (s : State) (v : Data) : answerOf s (s.respond v) := ⟨v, none, rfl⟩

theorem answerOf_respondWhenReady {s : State} (h : s.phase = .ready) (v : Data) :
    answerOf s (s.respondWhenReady v) :=
  respondWhenReady_ready h v ▸ answerOf_respond s v

theorem answerOf_answerWord {s : State} (h : s.phase = .ready) (w : InstrWord) : answerOf s (s.answerWord w) :=
  ⟨_, _, answerWord_ready h w⟩

/-- Neither a hold nor a refusal is left to an instruction in range once READY. -/
theorem exec_answers_of_ready {i : Instr} {s : State} (h : s.phase = .ready) (hi : i.inRange = true) :
    ∃ t, exec i s = .next t ∧ answerOf s t := by
  cases i with
  | decode w b => exact ⟨_, rfl, answerOf_respondWhenReady h _⟩
  | decodeJit w b => exact ⟨_, rfl, answerOf_respondWhenReady h _⟩
  | decodeName w b => exact ⟨_, rfl, answerOf_respondWhenReady h _⟩
  | isBranch a b => exact ⟨_, exec_isBranch_of_inRange hi b s, answerOf_respond s _⟩
  | index w b => exact ⟨_, rfl, answerOf_respond s _⟩
  | rotmask a b => exact ⟨_, exec_rotmask_of_inRange hi b s, answerOf_respond s _⟩
  | tableRead a b =>
    obtain ⟨ha, sel, hb⟩ := inRange_tableRead_iff.mp hi
    exact ⟨_, exec_tableRead_of_inRange ha hb s, answerOf_respondWhenReady h _⟩
  | reserved a b => exact absurd hi Bool.false_ne_true
  | nop => exact ⟨_, rfl, answerOf_answerWord h _⟩
  | ori rest => exact ⟨_, rfl, answerOf_answerWord h _⟩
  | add rest => exact ⟨_, rfl, answerOf_answerWord h _⟩
  | addRc rest => exact ⟨_, rfl, answerOf_answerWord h _⟩
  | branch rest => exact ⟨_, rfl, answerOf_answerWord h _⟩
  | bc rest => exact ⟨_, rfl, answerOf_answerWord h _⟩
  | bclr rest lk => exact ⟨_, rfl, answerOf_answerWord h _⟩
  | bcctr rest lk => exact ⟨_, rfl, answerOf_answerWord h _⟩
  | rfid rest lk => exact ⟨_, rfl, answerOf_answerWord h _⟩

/-- Settles O19: the answer of `exec_answers_of_ready`, with the port's new content written out. -/
theorem inRangeAnsweredOnceReady : Obligations.InRangeAnsweredOnceReady := by
  intro i s hready hrange
  obtain ⟨t, hexec, v, m, ht⟩ := exec_answers_of_ready hready hrange
  exact ⟨v, m, hexec.trans (congrArg Host.Outcome.next ht)⟩

end Sys2Proof.Machine
end

section
/-!
What a move can do to the state (10_state.md R20, R21, R25; 20_memory.md R39): a request's arrival and the block's answer
reach the ports, the refusal mark and the model's own `active` alone, and the phase is the build's and the host's.
-/

namespace Sys2Proof.Machine

/-! ## The moves of the requests -/

/-- A hold, an answer and a refusal reach the active port and the refusal mark alone (60_exceptions.md R97, R107). -/
theorem outcomeOf_frame {s t : State} (h : outcomeOf s t) :
    ∃ ports mark, t = { s with ports := ports, refusalMark := mark } ∧ ports.length = s.ports.length ∧
      ∀ j : Nat, j ≠ s.active → ports[j]? = s.ports[j]? := by
  have hset : ∀ q : Port, (s.ports.set s.active q).length = s.ports.length ∧
      ∀ j : Nat, j ≠ s.active → (s.ports.set s.active q)[j]? = s.ports[j]? :=
    fun _ => ⟨List.length_set, fun _ hj => List.getElem?_set_ne hj.symm⟩
  obtain rfl | ⟨v, m, rfl⟩ | rfl := h
  · exact ⟨_, _, rfl, rfl, fun _ _ => rfl⟩
  · exact ⟨_, _, rfl, hset _⟩
  · exact ⟨_, _, rfl, hset _⟩

/-- What one move can do to the fields of the state: the arrival of a request and attention to a port leave all but the
requests' own fields, and the number of ports; the two other moves are the build's and the host's. -/
theorem perform_frame {s t : State} {m : Move} (h : s.perform m = .next t) :
    (∃ ports mark active, t = { s with ports := ports, refusalMark := mark, active := active } ∧
      ports.length = s.ports.length) ∨ (m = .build ∧ t = s.buildMove) ∨ (m = .reset ∧ t = s.hostReset) := by
  obtain ⟨n, p, -, rfl⟩ | ⟨n, -, hserve⟩ | hbuild | hreset := perform_cases h
  · exact .inl ⟨_, _, _, rfl, List.length_modify ..⟩
  · obtain ⟨-, rfl⟩ | ⟨p, -, hout⟩ := serve_cases hserve
    · exact .inl ⟨_, _, _, rfl, rfl⟩
    · obtain ⟨ports, mark, rfl, hlen, -⟩ := outcomeOf_frame hout
      exact .inl ⟨_, _, _, rfl, hlen⟩
  · exact .inr (.inl hbuild)
  · exact .inr (.inr hreset)

/-- What every move keeps, every step keeps, where the agenda does not matter to it. -/
theorem step_keeps {P : State → Prop} (hagenda : ∀ s rest, P s → P { s with agenda := rest })
    (hmove : ∀ s t m, P s → s.perform m = .next t → P t) {s t : State} (hs : P s) (h : step s = .next t) : P t := by
  obtain ⟨m, rest, -, hm⟩ | ⟨m, -, -, hm⟩ | rfl := step_cases h
  · exact hmove _ t m (hagenda s rest hs) hm
  · exact hmove s t m hs hm
  · exact hs

/-! ## The statements -/

/-- Settles O32, from the three outcomes of a request. -/
theorem commandsWriteOnlyTheirPort : Obligations.CommandsWriteOnlyTheirPort := by
  intro i s t h
  obtain ⟨ports, mark, rfl, hlen, hother⟩ := outcomeOf_frame (outcomeOf_exec h)
  exact ⟨⟨ports, mark, rfl⟩, hlen, hother⟩

/-- No move changes the parameters or the number of ports (10_state.md R25). -/
theorem perform_configuration {s t : State} {m : Move} (h : s.perform m = .next t) :
    t.params = s.params ∧ t.ports.length = s.ports.length := by
  obtain ⟨ports, mark, active, rfl, hlen⟩ | ⟨-, rfl⟩ | ⟨-, rfl⟩ := perform_frame h
  · exact ⟨rfl, hlen⟩
  · obtain ⟨hparams, hports, -⟩ := buildMove_frame s
    exact ⟨hparams, congrArg List.length hports⟩
  · exact ⟨rfl, List.length_map _⟩

/-- Settles O51: the parameters and the number of ports are what every move keeps. -/
theorem configurationNeverChanges : Obligations.ConfigurationNeverChanges := by
  intro s t h
  refine step_keeps (P := fun u => u.params = s.params ∧ u.ports.length = s.ports.length) (fun _ _ hu => hu) ?_
    ⟨rfl, rfl⟩ h
  intro u v m ⟨hparams, hlen⟩ hm
  obtain ⟨hparams', hlen'⟩ := perform_configuration hm
  exact ⟨hparams'.trans hparams, hlen'.trans hlen⟩

/-- A move of the build that changes the phase is the publication, past the last pattern (43_table_set.md R82). -/
theorem buildMove_phase_ne {s : State} (h : s.buildMove.phase ≠ s.phase) :
    s.phase = .building ∧ s.buildMove = { s with phase := .ready } ∧
      ∃ n k, s.pos = .fill n k ∧ (order s.params)[n]? = none := by
  cases hphase : s.phase with
  | ready => exact absurd (congrArg State.phase (buildMove_ready hphase)) h
  | building =>
    cases hpos : s.pos with
    | sentinelFill i => exact absurd (congrArg State.phase (buildMove_sentinel hphase hpos)) h
    | fill n k =>
      cases hn : (order s.params)[n]? with
      | none => exact ⟨rfl, hpos ▸ buildMove_publish hphase hpos hn, n, k, rfl, hn⟩
      | some ge => exact absurd (congrArg State.phase (buildMove_fill hphase hpos hn)) h

/-- Settles O49: of the moves only the build's and the host's reach the phase at all. -/
theorem onlyTheBuildPublishes : Obligations.OnlyTheBuildPublishes := by
  intro s t m h hne
  obtain ⟨ports, mark, active, rfl, -⟩ | ⟨rfl, rfl⟩ | ⟨rfl, rfl⟩ := perform_frame h
  · exact absurd rfl hne
  · obtain ⟨hphase, heq, n, k, hpos, hn⟩ := buildMove_phase_ne hne
    rw [heq]
    exact .inl ⟨rfl, hphase, rfl, n, k, hpos, hn, rfl, rfl, rfl⟩
  · exact .inr ⟨rfl, rfl⟩

end Sys2Proof.Machine
end

section
/-!
Once READY an answer is a function of the request and the table entries (10_state.md R27, 20_memory.md R33, R40): the
entries, of which `State.entry` is the one reader, decide the content that a request leaves on its port.
-/

namespace Sys2Proof.Machine

/-! ## What the readers of the tables depend on -/

/-- Two states with the same tables and identifier widths read the same entries. -/
theorem entry_eq_of_tables {s s' : State} (hp : s.params = s'.params) (hit : s.it = s'.it) (hjt : s.jt = s'.jt)
    (hnt : s.nt = s'.nt) : s.entry = s'.entry := by
  have htable : s.table = s'.table := by
    funext sel
    cases sel with
    | it => exact hit
    | jt => exact hjt
    | nt => exact hnt
  funext sel idx
  simp only [State.entry, htable, hp]

theorem entryData_eq_of_entry {s s' : State} (h : s.entry = s'.entry) : s.entryData = s'.entryData := by
  funext sel idx
  simp only [State.entryData, h]

theorem decodeData_eq_of_entry {s s' : State} (h : s.entry = s'.entry) : s.decodeData = s'.decodeData := by
  funext w
  simp only [State.decodeData, entryData_eq_of_entry h]

theorem jitData_eq_of_entry {s s' : State} (h : s.entry = s'.entry) : s.jitData = s'.jitData := by
  funext w
  simp only [State.jitData, entryData_eq_of_entry h]

theorem nameData_eq_of_entry {s s' : State} (h : s.entry = s'.entry) : s.nameData = s'.nameData := by
  funext w
  simp only [State.nameData, entryData_eq_of_entry h]

theorem marksOf_eq_of_entry {s s' : State} (h : s.entry = s'.entry) : s.marksOf = s'.marksOf := by
  funext w
  simp only [State.marksOf, jitData_eq_of_entry h, nameData_eq_of_entry h]

/-! ## Two states that are answered alike -/

/-- The same content stands on the active ports of both states afterwards. -/
def sameContent (s s' t t' : State) : Prop :=
  ∃ q : Port, t.ports = s.ports.set s.active q ∧ t'.ports = s'.ports.set s'.active q

/-- Where both ports exist, they hold that content. -/
theorem active_port_eq {s s' t t' : State} (h : sameContent s s' t t') (hs : s.active < s.ports.length)
    (hs' : s'.active < s'.ports.length) : t.ports[s.active]? = t'.ports[s'.active]? := by
  obtain ⟨q, ht, ht'⟩ := h
  rw [ht, ht', List.getElem?_set_self hs, List.getElem?_set_self hs']

theorem sameContent_respond (s s' : State) (v : Data) : sameContent s s' (s.respond v) (s'.respond v) :=
  ⟨_, rfl, rfl⟩

theorem sameContent_refuse (s s' : State) : sameContent s s' s.refuse s'.refuse := ⟨_, rfl, rfl⟩

theorem sameContent_respondWhenReady {s s' : State} (hs : s.phase = .ready) (hs' : s'.phase = .ready) {v v' : Data}
    (hv : v = v') : sameContent s s' (s.respondWhenReady v) (s'.respondWhenReady v') := by
  rw [respondWhenReady_ready hs, respondWhenReady_ready hs', hv]
  exact sameContent_respond s s' v'

theorem sameContent_answerWord {s s' : State} (hs : s.phase = .ready) (hs' : s'.phase = .ready)
    (h : s.entry = s'.entry) (w : InstrWord) : sameContent s s' (s.answerWord w) (s'.answerWord w) := by
  rw [answerWord_ready hs, answerWord_ready hs', decodeData_eq_of_entry h, marksOf_eq_of_entry h]
  exact ⟨_, rfl, rfl⟩

/-- READY states with the same entries are answered alike, whatever the instruction. -/
theorem exec_sameContent (i : Instr) {s s' : State} (hs : s.phase = .ready) (hs' : s'.phase = .ready)
    (h : s.entry = s'.entry) :
    ∃ t t', exec i s = .next t ∧ exec i s' = .next t' ∧ sameContent s s' t t' := by
  have hword := sameContent_answerWord hs hs' h
  cases i with
  | decode w b =>
    exact ⟨_, _, rfl, rfl, sameContent_respondWhenReady hs hs' (congrFun (decodeData_eq_of_entry h) w)⟩
  | decodeJit w b =>
    exact ⟨_, _, rfl, rfl, sameContent_respondWhenReady hs hs' (congrFun (jitData_eq_of_entry h) w)⟩
  | decodeName w b =>
    exact ⟨_, _, rfl, rfl, sameContent_respondWhenReady hs hs' (congrFun (nameData_eq_of_entry h) w)⟩
  | isBranch a b =>
    simp only [exec, execIsBranch]
    split
    · exact ⟨_, _, rfl, rfl, sameContent_respond s s' _⟩
    · exact ⟨_, _, rfl, rfl, sameContent_refuse s s'⟩
  | index w b => exact ⟨_, _, rfl, rfl, sameContent_respond s s' _⟩
  | rotmask a b =>
    simp only [exec, execRotmask]
    split
    · exact ⟨_, _, rfl, rfl, sameContent_respond s s' _⟩
    · exact ⟨_, _, rfl, rfl, sameContent_refuse s s'⟩
  | tableRead a b =>
    simp only [exec, execTableRead]
    split
    · split
      · exact ⟨_, _, rfl, rfl, sameContent_respondWhenReady hs hs' (congrFun₂ (entryData_eq_of_entry h) _ _)⟩
      · exact ⟨_, _, rfl, rfl, sameContent_refuse s s'⟩
    · exact ⟨_, _, rfl, rfl, sameContent_refuse s s'⟩
  | reserved a b => exact ⟨_, _, rfl, rfl, sameContent_refuse s s'⟩
  | nop => exact ⟨_, _, rfl, rfl, hword _⟩
  | ori rest => exact ⟨_, _, rfl, rfl, hword _⟩
  | add rest => exact ⟨_, _, rfl, rfl, hword _⟩
  | addRc rest => exact ⟨_, _, rfl, rfl, hword _⟩
  | branch rest => exact ⟨_, _, rfl, rfl, hword _⟩
  | bc rest => exact ⟨_, _, rfl, rfl, hword _⟩
  | bclr rest lk => exact ⟨_, _, rfl, rfl, hword _⟩
  | bcctr rest lk => exact ⟨_, _, rfl, rfl, hword _⟩
  | rfid rest lk => exact ⟨_, _, rfl, rfl, hword _⟩

/-- Settles O33: equal tables give equal entries, and those the content of the port. -/
theorem answerDependsOnCommandAndTables : Obligations.AnswerDependsOnCommandAndTables := by
  intro i s s' t t' hs hs' hp hit hjt hnt hlen hlen' ht ht'
  obtain ⟨u, u', hu, hu', hsame⟩ := exec_sameContent i hs hs' (entry_eq_of_tables hp hit hjt hnt)
  obtain rfl : t = u := Host.Outcome.next.inj (ht.symm.trans hu)
  obtain rfl : t' = u' := Host.Outcome.next.inj (ht'.symm.trans hu')
  exact active_port_eq hsame hlen hlen'

end Sys2Proof.Machine
end

section
/-!
The enumeration of a pattern is its cover (42_pattern_expander.md R70, R71): the build writes the indices that the pattern
covers and no others.
-/

namespace Sys2Proof.Machine

theorem mainOp_lt_of_normalOk {g : Group} {e : Pattern} (h : normalOk g e) : g.mainOp < 2 ^ 6 := by
  obtain ⟨-, hop, -⟩ := h
  exact hop

theorem value_lt_of_normalOk {g : Group} {e : Pattern} (h : normalOk g e) : e.value < 2 ^ (g.count - e.magn) := by
  obtain ⟨-, -, -, -, hvalue⟩ := h
  exact hvalue

/-- The three parts of a normal pattern's 11-bit F values: the free high and magnitude bits, the value, the low bits. -/
theorem normal_factors {g : Group} {e : Pattern} (h : normalOk g e) :
    2 ^ (e.magn + 11 - g.sh - g.count) * 2 ^ (g.count - e.magn) * 2 ^ g.sh = 2 ^ 11 := by
  obtain ⟨-, -, hcount, hmagn, -⟩ := h
  rw [← pow_add, ← pow_add]
  congr 1
  omega

/-- Two digits below their bounds make a number below the product of the bounds. -/
theorem digits_lt {hi lo a b : Nat} (hhi : hi < a) (hlo : lo < b) : hi * b + lo < a * b :=
  calc hi * b + lo < (hi + 1) * b := by rw [Nat.succ_mul]; omega
    _ ≤ a * b := Nat.mul_le_mul_right b hhi

/-- Every F value of a normal pattern's enumeration has 11 bits. -/
theorem expandF_lt {g : Group} {e : Pattern} (h : normalOk g e) {n : Nat} (hn : n < expansions g e) :
    expandF g e n < 2 ^ 11 := by
  have hvalue := value_lt_of_normalOk h
  rw [expansions_normal h.1] at hn
  rw [expandF_eq hvalue, ← normal_factors h]
  exact digits_lt (digits_lt (Nat.div_lt_of_lt_mul (by rwa [Nat.mul_comm])) hvalue) (Nat.mod_lt n (Nat.two_pow_pos _))

/-- Every F value of a normal pattern's enumeration has the pattern's value in its field. -/
theorem expandF_field {g : Group} {e : Pattern} (h : normalOk g e) (n : Nat) :
    expandF g e n / 2 ^ g.sh % 2 ^ (g.count - e.magn) = e.value := by
  have hvalue := value_lt_of_normalOk h
  have hsh : 0 < 2 ^ g.sh := Nat.two_pow_pos _
  rw [expandF_eq hvalue, Nat.mul_comm _ (2 ^ g.sh), Nat.mul_add_div hsh, Nat.div_eq_of_lt (Nat.mod_lt n hsh),
    Nat.add_zero, Nat.mul_comm, Nat.mul_add_mod, Nat.mod_eq_of_lt hvalue]

/-- The place of an F value in a normal pattern's enumeration: its bits above the field, then its bits below. -/
def placeOfF (g : Group) (e : Pattern) (f : Nat) : Nat :=
  f / 2 ^ g.sh / 2 ^ (g.count - e.magn) * 2 ^ g.sh + f % 2 ^ g.sh

theorem placeOfF_lt {g : Group} {e : Pattern} (h : normalOk g e) {f : Nat} (hf : f < 2 ^ 11) :
    placeOfF g e f < expansions g e := by
  have hhigh : f / 2 ^ g.sh / 2 ^ (g.count - e.magn) < 2 ^ (e.magn + 11 - g.sh - g.count) := by
    rw [Nat.div_div_eq_div_mul]
    apply Nat.div_lt_of_lt_mul
    rwa [Nat.mul_comm, Nat.mul_comm (2 ^ g.sh), ← Nat.mul_assoc, normal_factors h]
  rw [expansions_normal h.1]
  exact digits_lt hhigh (Nat.mod_lt f (Nat.two_pow_pos _))

/-- An F value with the pattern's value in its field stands in the enumeration at its place. -/
theorem expandF_placeOfF {g : Group} {e : Pattern} (h : normalOk g e) {f : Nat}
    (hfield : f / 2 ^ g.sh % 2 ^ (g.count - e.magn) = e.value) : expandF g e (placeOfF g e f) = f := by
  have hsh : 0 < 2 ^ g.sh := Nat.two_pow_pos _
  have hhigh : placeOfF g e f / 2 ^ g.sh = f / 2 ^ g.sh / 2 ^ (g.count - e.magn) := by
    rw [placeOfF, Nat.mul_comm, Nat.mul_add_div hsh, Nat.div_eq_of_lt (Nat.mod_lt f hsh), Nat.add_zero]
  have hlow : placeOfF g e f % 2 ^ g.sh = f % 2 ^ g.sh := by
    rw [placeOfF, Nat.mul_comm, Nat.mul_add_mod, Nat.mod_mod]
  rw [expandF_eq (value_lt_of_normalOk h), hhigh, hlow, ← hfield, Nat.div_add_mod', Nat.div_add_mod']

/-- A normal pattern covers exactly the indices of its enumeration (42_pattern_expander.md R68, R70). -/
theorem coversNormal_iff_expand {g : Group} {e : Pattern} (h : normalOk g e) (idx : DecodeIndex) :
    coversNormal g e idx = true ↔ ∃ n < expansions g e, expand g e n = idx := by
  have hop := mainOp_lt_of_normalOk h
  have hidx : idx.toNat < 2 ^ 17 := idx.isLt
  rw [coversNormal_iff]
  constructor
  · rintro ⟨hpo, hfield⟩
    have hplace : placeOfF g e (idx.toNat / 2 ^ 6) < expansions g e := placeOfF_lt h (by omega)
    refine ⟨_, hplace, BitVec.eq_of_toNat_eq ?_⟩
    rw [expand_normal_toNat h (expandF_lt h hplace), expandF_placeOfF h hfield]
    omega
  · rintro ⟨n, hn, rfl⟩
    have htoNat := expand_normal_toNat h (expandF_lt h hn)
    have hF : (expand g e n).toNat / 2 ^ 6 = expandF g e n := by omega
    rw [hF]
    exact ⟨by omega, expandF_field h n⟩

/-- A saturated pattern covers exactly the indices of its enumeration (42_pattern_expander.md R71). -/
theorem covers_iff_expand_of_saturatedOk {g : Group} {e : Pattern} (h : saturatedOk g e) (idx : DecodeIndex) :
    covers g e idx = true ↔ ∃ n < expansions g e, expand g e n = idx := by
  have hvalue : e.value < 2 ^ 6 := h.2.1
  have hidx := idx.isLt
  rw [covers_saturated e h.1, expansions_saturated h.1]
  constructor
  · intro hpo
    have hn : idx.toNat / 2 ^ 6 < 2 ^ 11 := by omega
    refine ⟨_, hn, BitVec.eq_of_toNat_eq ?_⟩
    rw [expand_saturated_toNat h hn]
    omega
  · rintro ⟨n, hn, rfl⟩
    rw [expand_saturated_toNat h hn]
    omega

/-- A pattern that fits covers exactly the indices of its enumeration. -/
theorem covers_iff_expand {g : Group} {e : Pattern} (h : normalOk g e ∨ saturatedOk g e) (idx : DecodeIndex) :
    covers g e idx = true ↔ ∃ n < expansions g e, expand g e n = idx := by
  obtain h | h := h
  · rw [covers_normal e h.1]
    exact coversNormal_iff_expand h idx
  · exact covers_iff_expand_of_saturatedOk h idx

end Sys2Proof.Machine
end

section
/-!
What the writes of the build leave in the tables (43_table_set.md R81, R83): an index holds its last write, and after the
writes of all patterns that is the handler of the last covering pattern.
-/

namespace Sys2Proof.Machine

/-! ## The last write of an index -/

theorem valueAfter_eq_elim (ws : List (DecodeIndex × Triple)) (idx : DecodeIndex) :
    valueAfter ws idx = ((ws.filter fun w => decide (w.1 = idx)).getLast?).elim sentinels Prod.snd := by
  unfold valueAfter
  split <;> simp [*]

@[simp] theorem valueAfter_nil (idx : DecodeIndex) : valueAfter [] idx = sentinels := rfl

/-- Writes to other indices do not matter. -/
theorem valueAfter_append_of_not_mem {ws us : List (DecodeIndex × Triple)} {idx : DecodeIndex}
    (h : ∀ u ∈ us, u.1 ≠ idx) : valueAfter (ws ++ us) idx = valueAfter ws idx := by
  have hnil : (us.filter fun w => decide (w.1 = idx)) = [] := by simpa using h
  rw [valueAfter_eq_elim, valueAfter_eq_elim, List.filter_append, hnil, List.append_nil]

/-- Later writes to the index that all give the same triple decide its value. -/
theorem valueAfter_append_of_mem {ws us : List (DecodeIndex × Triple)} {idx : DecodeIndex} {t : Triple}
    (hmem : (idx, t) ∈ us) (h : ∀ u ∈ us, u.1 = idx → u.2 = t) : valueAfter (ws ++ us) idx = t := by
  have hfilter : (idx, t) ∈ us.filter fun w => decide (w.1 = idx) := by simpa using hmem
  obtain ⟨u, hu⟩ := Option.ne_none_iff_exists'.1 (mt List.getLast?_eq_none_iff.1 (List.ne_nil_of_mem hfilter))
  obtain ⟨hus, hidx⟩ := List.mem_filter.1 (List.mem_of_getLast? hu)
  rw [valueAfter_eq_elim, List.filter_append, List.getLast?_append, hu]
  exact h u hus (of_decide_eq_true hidx)

/-! ## The writes of the build, one after the other -/

/-- The writes of every index of each pattern of a list, in order. -/
def allWrites (ges : List (Group × Pattern)) : List (DecodeIndex × Triple) :=
  ges.flatMap fun ge => patternWrites ge.1 ge.2 (expansions ge.1 ge.2)

/-- All writes for one pattern give each index it covers its own choice, and leave the others. -/
theorem valueAfter_append_patternWrites {g : Group} {e : Pattern} (h : normalOk g e ∨ saturatedOk g e)
    (ws : List (DecodeIndex × Triple)) (idx : DecodeIndex) :
    valueAfter (ws ++ patternWrites g e (expansions g e)) idx =
      if covers g e idx then pick e idx else valueAfter ws idx := by
  have hcovers := covers_iff_expand h idx
  split
  next hc =>
    obtain ⟨n, hn, hidx⟩ := hcovers.1 hc
    refine valueAfter_append_of_mem (List.mem_map.2 ⟨n, List.mem_range.2 hn, by rw [hidx]⟩) fun u hu hui => ?_
    obtain ⟨j, -, rfl⟩ := List.mem_map.1 hu
    exact congrArg (pick e) hui
  next hc =>
    refine valueAfter_append_of_not_mem fun u hu hui => hc (hcovers.2 ?_)
    obtain ⟨j, hj, rfl⟩ := List.mem_map.1 hu
    exact ⟨j, List.mem_range.1 hj, hui⟩

theorem built_eq_elim (p : Params) (idx : DecodeIndex) :
    built p idx = (lastCover p idx).elim sentinels fun ge => pick ge.2 idx := by
  unfold built
  split <;> simp [*]

/-- After the writes of all patterns of a list an index holds the choice of the last pattern that covers it. -/
theorem valueAfter_allWrites {ges : List (Group × Pattern)}
    (h : ∀ ge ∈ ges, normalOk ge.1 ge.2 ∨ saturatedOk ge.1 ge.2) (idx : DecodeIndex) :
    valueAfter (allWrites ges) idx =
      ((ges.filter fun ge => covers ge.1 ge.2 idx).getLast?).elim sentinels fun ge => pick ge.2 idx := by
  induction ges using List.reverseRecOn with
  | nil => rfl
  | append_singleton ges ge ih =>
    have hge := h ge (by simp)
    have hwrites : allWrites (ges ++ [ge]) =
        allWrites ges ++ patternWrites ge.1 ge.2 (expansions ge.1 ge.2) := by simp [allWrites]
    rw [hwrites, valueAfter_append_patternWrites hge, ih fun x hx => h x (List.mem_append_left _ hx),
      List.filter_append]
    by_cases hc : covers ge.1 ge.2 idx = true <;> simp [hc]

/-- All the writes of the build leave the built tables (43_table_set.md R83). -/
theorem valueAfter_order {p : Params} (h : paramsWf p = true) (idx : DecodeIndex) :
    valueAfter (allWrites (order p)) idx = built p idx := by
  rw [valueAfter_allWrites fun _ hge => pattern_fits h hge, built_eq_elim, lastCover, covering]

theorem writesUpTo_none {p : Params} {n : Nat} (h : (order p)[n]? = none) (k : Nat) :
    writesUpTo p n k = allWrites ((order p).take n) := by
  simp [writesUpTo, allWrites, h]

theorem writesUpTo_some {p : Params} {n : Nat} {ge : Group × Pattern} (h : (order p)[n]? = some ge) (k : Nat) :
    writesUpTo p n k = allWrites ((order p).take n) ++ patternWrites ge.1 ge.2 k := by
  simp [writesUpTo, allWrites, h]

/-- Before the first index of a pattern only the patterns before it have been written. -/
theorem writesUpTo_start (p : Params) (n : Nat) : writesUpTo p n 0 = allWrites ((order p).take n) := by
  cases h : (order p)[n]? with
  | none => exact writesUpTo_none h 0
  | some ge => simp [writesUpTo_some h, patternWrites]

/-- One more index of a pattern is one more write. -/
theorem writesUpTo_succ {p : Params} {n : Nat} {ge : Group × Pattern} (h : (order p)[n]? = some ge) (k : Nat) :
    writesUpTo p n (k + 1) =
      writesUpTo p n k ++ [(expand ge.1 ge.2 k, pick ge.2 (expand ge.1 ge.2 k))] := by
  simp [writesUpTo_some h, patternWrites, List.range_succ]

/-- After the last index of a pattern the build stands before the next one. -/
theorem writesUpTo_next {p : Params} {n : Nat} {ge : Group × Pattern} (h : (order p)[n]? = some ge) :
    writesUpTo p (n + 1) 0 = writesUpTo p n (expansions ge.1 ge.2) := by
  simp [writesUpTo_start, writesUpTo_some h, List.take_add_one, h, allWrites]

end Sys2Proof.Machine
end

section
/-!
The invariant of the block (Safety.lean): it holds after reset, every move of the build keeps it, and no other move but a
reset reaches anything it speaks of.
-/

namespace Sys2Proof.Machine

/-! ## The tables at each position of the build -/

theorem tablesAsBuilt_ready {s : State} (h : s.phase = .ready) :
    s.tablesAsBuilt ↔ ∀ idx, s.holds idx (built s.params idx) := by
  simp only [State.tablesAsBuilt, h]

theorem tablesAsBuilt_sentinel {s : State} {i : Nat} (h : s.phase = .building) (hp : s.pos = .sentinelFill i) :
    s.tablesAsBuilt ↔ i < tableSize ∧ ∀ idx : DecodeIndex, idx.toNat < i → s.holds idx sentinels := by
  simp only [State.tablesAsBuilt, h, hp]

/-- Within a pattern: some index of it is still to be written. -/
theorem tablesAsBuilt_fill {s : State} {n k : Nat} {ge : Group × Pattern} (h : s.phase = .building)
    (hp : s.pos = .fill n k) (hn : (order s.params)[n]? = some ge) :
    s.tablesAsBuilt ↔
      k < expansions ge.1 ge.2 ∧ ∀ idx, s.holds idx (valueAfter (writesUpTo s.params n k) idx) := by
  have hle : n ≤ (order s.params).length := (List.getElem?_eq_some_iff.1 hn).1.le
  simp only [State.tablesAsBuilt, h, hp, hn, hle, true_and]

/-- Past the last pattern: every write has been made. -/
theorem tablesAsBuilt_filled {s : State} {n k : Nat} (h : s.phase = .building) (hp : s.pos = .fill n k)
    (hn : (order s.params)[n]? = none) :
    s.tablesAsBuilt ↔
      n = (order s.params).length ∧ k = 0 ∧ ∀ idx, s.holds idx (valueAfter (allWrites (order s.params)) idx) := by
  have hge : (order s.params).length ≤ n := List.getElem?_eq_none_iff.1 hn
  have hwrites := writesUpTo_none hn k
  rw [List.take_of_length_le hge] at hwrites
  simp only [State.tablesAsBuilt, h, hp, hn, hwrites, Nat.le_antisymm_iff, hge, and_true]

/-- Before a pattern, or past the last one: the patterns before it have been written. -/
theorem tablesAsBuilt_of_fill_start {s : State} {n : Nat} (h : s.phase = .building) (hp : s.pos = .fill n 0)
    (hn : n ≤ (order s.params).length) (hs : ∀ idx, s.holds idx (valueAfter (writesUpTo s.params n 0) idx)) :
    s.tablesAsBuilt := by
  cases hge : (order s.params)[n]? with
  | some ge => exact (tablesAsBuilt_fill h hp hge).2 ⟨expansions_pos ge.1 ge.2, hs⟩
  | none =>
    have hlen : n = (order s.params).length := hn.antisymm (List.getElem?_eq_none_iff.1 hge)
    rw [writesUpTo_start, hlen, List.take_length] at hs
    exact (tablesAsBuilt_filled h hp hge).2 ⟨hlen, rfl, hs⟩

/-! ## One write -/

theorem holds_writeEntry_same (s : State) (idx : DecodeIndex) (t : Triple) : (s.writeEntry idx t).holds idx t := by
  simp [State.holds]

theorem holds_writeEntry_other {s : State} {i idx : DecodeIndex} (h : idx ≠ i) (t u : Triple) :
    (s.writeEntry i t).holds idx u ↔ s.holds idx u := by
  simp [State.holds, read_write_other _ _ h]

/-- A write after the others is the last write of its index, in the tables as in the list of writes. -/
theorem holds_valueAfter_writeEntry {s : State} {ws : List (DecodeIndex × Triple)}
    (h : ∀ idx, s.holds idx (valueAfter ws idx)) (i : DecodeIndex) (t : Triple) (idx : DecodeIndex) :
    (s.writeEntry i t).holds idx (valueAfter (ws ++ [(i, t)]) idx) := by
  by_cases hidx : idx = i
  · subst hidx
    rw [valueAfter_append_of_mem (t := t) (by simp) (by simp)]
    exact holds_writeEntry_same s idx t
  · rw [valueAfter_append_of_not_mem (by simpa using Ne.symm hidx), holds_writeEntry_other hidx]
    exact h idx

/-- A sentinel at the next index extends the filled part of the tables by it. -/
theorem holds_sentinels_writeEntry {s : State} {i : Nat} (h : ∀ idx : DecodeIndex, idx.toNat < i → s.holds idx sentinels)
    {idx : DecodeIndex} (hidx : idx.toNat < i + 1) :
    (s.writeEntry (BitVec.ofNat 17 i) sentinels).holds idx sentinels := by
  by_cases heq : idx = BitVec.ofNat 17 i
  · exact heq ▸ holds_writeEntry_same s _ sentinels
  · have hne : idx.toNat ≠ i := fun hi => heq (by rw [← hi, BitVec.ofNat_toNat, BitVec.setWidth_eq])
    exact (holds_writeEntry_other heq _ _).2 (h idx (by omega))

/-! ## The moves of the build -/

/-- A sentinel write keeps the invariant of the tables (43_table_set.md R80). -/
theorem tablesAsBuilt_after_sentinel {s : State} {i : Nat} (hphase : s.phase = .building)
    (hpos : s.pos = .sentinelFill i) (h : s.tablesAsBuilt) : s.buildMove.tablesAsBuilt := by
  obtain ⟨hi, hfilled⟩ := (tablesAsBuilt_sentinel hphase hpos).1 h
  rw [buildMove_sentinel hphase hpos]
  unfold afterSentinel
  split
  next hlt =>
    exact (tablesAsBuilt_sentinel (s := { s.writeEntry _ sentinels with pos := .sentinelFill (i + 1) }) hphase rfl).2
      ⟨hlt, fun _ => holds_sentinels_writeEntry hfilled⟩
  next hlast =>
    refine tablesAsBuilt_of_fill_start hphase rfl (Nat.zero_le _) fun idx => ?_
    rw [writesUpTo_start]
    have hidx : idx.toNat < tableSize := idx.isLt
    exact holds_sentinels_writeEntry hfilled (by omega)

/-- A pattern's write keeps the invariant of the tables (42_pattern_expander.md R74). -/
theorem tablesAsBuilt_after_fill {s : State} {n k : Nat} {ge : Group × Pattern} (hphase : s.phase = .building)
    (hpos : s.pos = .fill n k) (hn : (order s.params)[n]? = some ge) (h : s.tablesAsBuilt) :
    s.buildMove.tablesAsBuilt := by
  obtain ⟨hk, hwritten⟩ := (tablesAsBuilt_fill hphase hpos hn).1 h
  have hwrite := holds_valueAfter_writeEntry hwritten (expand ge.1 ge.2 k) (pick ge.2 (expand ge.1 ge.2 k))
  rw [← writesUpTo_succ hn] at hwrite
  rw [buildMove_fill hphase hpos hn]
  unfold afterWrite
  split
  next hlt =>
    exact (tablesAsBuilt_fill (s := { s.writeEntry _ _ with pos := .fill n (k + 1) }) hphase rfl hn).2 ⟨hlt, hwrite⟩
  next hlast =>
    have hdone : k + 1 = expansions ge.1 ge.2 := by omega
    rw [hdone, ← writesUpTo_next hn] at hwrite
    exact tablesAsBuilt_of_fill_start hphase rfl (List.getElem?_eq_some_iff.1 hn).1 hwrite

/-- Publication: past the last pattern the tables are the built tables (43_table_set.md R82, R83). -/
theorem tablesAsBuilt_after_publish {s : State} {n k : Nat} (hwf : paramsWf s.params = true)
    (hphase : s.phase = .building) (hpos : s.pos = .fill n k) (hn : (order s.params)[n]? = none)
    (h : s.tablesAsBuilt) : s.buildMove.tablesAsBuilt := by
  obtain ⟨-, -, hwritten⟩ := (tablesAsBuilt_filled hphase hpos hn).1 h
  rw [buildMove_publish hphase hpos hn]
  exact (tablesAsBuilt_ready rfl).2 fun idx => valueAfter_order hwf idx ▸ hwritten idx

/-- Every move of the build keeps the tables in canonical form. -/
theorem memoriesWf_buildMove {s : State} (h : s.memoriesWf) : s.buildMove.memoriesWf := by
  cases hphase : s.phase with
  | ready => rwa [buildMove_ready hphase]
  | building =>
    cases hpos : s.pos with
    | sentinelFill i =>
      rw [buildMove_sentinel hphase hpos]
      exact writeEntry_memoriesWf s _ _ h
    | fill n k =>
      cases hn : (order s.params)[n]? with
      | none => rwa [buildMove_publish hphase hpos hn]
      | some ge =>
        rw [buildMove_fill hphase hpos hn]
        exact writeEntry_memoriesWf s _ _ h

/-- Every move of the build keeps the tables at what it has written. -/
theorem tablesAsBuilt_buildMove {s : State} (hwf : paramsWf s.params = true) (h : s.tablesAsBuilt) :
    s.buildMove.tablesAsBuilt := by
  cases hphase : s.phase with
  | ready => rwa [buildMove_ready hphase]
  | building =>
    cases hpos : s.pos with
    | sentinelFill i => exact tablesAsBuilt_after_sentinel hphase hpos h
    | fill n k =>
      cases hn : (order s.params)[n]? with
      | none => exact tablesAsBuilt_after_publish hwf hphase hpos hn h
      | some ge => exact tablesAsBuilt_after_fill hphase hpos hn h

theorem buildMove_inv {s : State} (h : s.Inv) : s.buildMove.Inv where
  params := (buildMove_frame s).1 ▸ h.params
  memories := memoriesWf_buildMove h.memories
  tables := tablesAsBuilt_buildMove h.params h.tables

/-! ## Reset and the other moves -/

/-- At the start of the build, with nothing written, the invariant holds (10_state.md R28). -/
theorem inv_of_start {s : State} (hwf : paramsWf s.params = true) (hphase : s.phase = .building)
    (hpos : s.pos = .sentinelFill 0) (hit : s.it = .empty) (hjt : s.jt = .empty) (hnt : s.nt = .empty) : s.Inv where
  params := hwf
  memories := ⟨hit ▸ empty_wf, hjt ▸ empty_wf, hnt ▸ empty_wf⟩
  tables := (tablesAsBuilt_sentinel hphase hpos).2 ⟨by decide, fun _ hidx => absurd hidx (Nat.not_lt_zero _)⟩

theorem resetWith_inv {p : Params} (h : paramsWf p = true) (n : Nat) : (State.resetWith p n).Inv :=
  inv_of_start h rfl rfl rfl rfl rfl

theorem hostReset_inv {s : State} (h : s.Inv) : s.hostReset.Inv :=
  inv_of_start h.params rfl rfl rfl rfl rfl

/-- The invariant does not speak of the ports, the refusal mark, `active` or the agenda. -/
theorem inv_of_request_fields {s : State} (h : s.Inv) (ports : List Port) (mark : Bool) (active : Nat)
    (agenda : List Move) :
    { s with ports := ports, refusalMark := mark, active := active, agenda := agenda }.Inv where
  params := h.params
  memories := h.memories
  tables := h.tables

/-- Every move keeps the invariant. -/
theorem perform_inv {s t : State} {m : Move} (hs : s.Inv) (h : s.perform m = .next t) : t.Inv := by
  obtain ⟨ports, mark, active, rfl, -⟩ | ⟨-, rfl⟩ | ⟨-, rfl⟩ := perform_frame h
  · exact inv_of_request_fields hs ports mark active s.agenda
  · exact buildMove_inv hs
  · exact hostReset_inv hs

/-! ## The statements -/

/-- Settles O52: every move keeps the invariant, and so every step. -/
theorem everyStepKeepsTheTablesAsBuilt : Obligations.EveryStepKeepsTheTablesAsBuilt :=
  fun _ _ => step_keeps (fun s rest hs => inv_of_request_fields hs s.ports s.refusalMark s.active rest)
    fun _ _ _ => perform_inv

/-- Settles O53: the block's own parameters are well-formed (`bootParams_wf`), and the build starts with nothing written. -/
theorem tablesAsBuiltAtReset : Obligations.TablesAsBuiltAtReset :=
  ⟨resetWith_inv bootParams_wf _, fun _ n hp => resetWith_inv hp n⟩

/-- Settles O57: of the conjuncts only those about the ports are more than a field of `State.resetWith`. -/
theorem resetState : Obligations.ResetState := by
  have hports : ∀ q ∈ State.reset.ports, q.pending = none := by
    intro q hq
    rw [reset_ports] at hq
    rw [List.eq_of_mem_replicate hq]
    rfl
  have hlen : 1 ≤ State.reset.ports.length := by
    rw [reset_ports, List.length_replicate]
    exact Nat.succ_pos Config.morePorts
  exact ⟨rfl, rfl, rfl, hlen, hports, rfl⟩

end Sys2Proof.Machine
end

section
/-!
The words of the PPC32 rows and their fields (30_encoding.md R48, R52, R53): reading a field of a word that is put together,
putting a word together from its fields, and testing fields by a mask.
-/

namespace Sys2Proof.Machine

/-! ## The fields of the words of the PPC32 rows -/

@[simp] theorem wordPO_poWord (po : BitVec 6) (rest : BitVec 26) : wordPO (poWord po rest) = po :=
  BitVec.extractLsb'_append_eq_left

@[simp] theorem extractLsb'_poWord (po : BitVec 6) (rest : BitVec 26) : (poWord po rest).extractLsb' 0 26 = rest :=
  BitVec.extractLsb'_append_eq_right

@[simp] theorem wordPO_fWord (po : BitVec 6) (rest : BitVec 15) (f : BitVec 11) : wordPO (fWord po rest f) = po := by
  apply BitVec.eq_of_toNat_eq
  have hr := rest.isLt
  have hf := f.isLt
  rw [wordPO_toNat, fWord_toNat]
  omega

@[simp] theorem wordRest_fWord (po : BitVec 6) (rest : BitVec 15) (f : BitVec 11) :
    wordRest (fWord po rest f) = rest := by
  apply BitVec.eq_of_toNat_eq
  have hr := rest.isLt
  have hf := f.isLt
  rw [wordRest_toNat, fWord_toNat]
  omega

@[simp] theorem wordF_fWord (po : BitVec 6) (rest : BitVec 15) (f : BitVec 11) : wordF (fWord po rest f) = f :=
  BitVec.extractLsb'_append_eq_right

/-- The XL form is the F form whose `F` is the extended opcode above bit 0. -/
theorem xlWord_eq_fWord (po : BitVec 6) (rest : BitVec 15) (xo : BitVec 10) (lk : BitVec 1) :
    xlWord po rest xo lk = fWord po rest (xo ++ lk) := by
  apply BitVec.eq_of_toNat_eq
  have happend : (xo ++ lk).toNat = xo.toNat * 2 + lk.toNat := by
    rw [BitVec.toNat_append, ← Nat.shiftLeft_add_eq_or_of_lt lk.isLt, Nat.shiftLeft_eq]
  rw [xlWord_toNat, fWord_toNat, happend]
  omega

@[simp] theorem wordPO_xlWord (po : BitVec 6) (rest : BitVec 15) (xo : BitVec 10) (lk : BitVec 1) :
    wordPO (xlWord po rest xo lk) = po := by
  rw [xlWord_eq_fWord, wordPO_fWord]

@[simp] theorem wordRest_xlWord (po : BitVec 6) (rest : BitVec 15) (xo : BitVec 10) (lk : BitVec 1) :
    wordRest (xlWord po rest xo lk) = rest := by
  rw [xlWord_eq_fWord, wordRest_fWord]

@[simp] theorem wordXO_xlWord (po : BitVec 6) (rest : BitVec 15) (xo : BitVec 10) (lk : BitVec 1) :
    wordXO (xlWord po rest xo lk) = xo := by
  apply BitVec.eq_of_toNat_eq
  have hx := xo.isLt
  have hl := lk.isLt
  rw [wordXO_toNat, xlWord_toNat]
  omega

@[simp] theorem extractLsb'_xlWord (po : BitVec 6) (rest : BitVec 15) (xo : BitVec 10) (lk : BitVec 1) :
    (xlWord po rest xo lk).extractLsb' 0 1 = lk :=
  BitVec.extractLsb'_append_eq_right

/-! ## A word is made of its fields -/

theorem poWord_fields (w : InstrWord) : poWord (wordPO w) (w.extractLsb' 0 26) = w :=
  (BitVec.extractLsb'_append_extractLsb'_eq_extractLsb' rfl).trans BitVec.extractLsb'_eq_self

theorem fWord_fields (w : InstrWord) : fWord (wordPO w) (wordRest w) (wordF w) = w := by
  have hhigh : wordPO w ++ wordRest w = w.extractLsb' 11 21 :=
    BitVec.extractLsb'_append_extractLsb'_eq_extractLsb' rfl
  rw [fWord, hhigh]
  exact (BitVec.extractLsb'_append_extractLsb'_eq_extractLsb' rfl).trans BitVec.extractLsb'_eq_self

theorem xlWord_fields (w : InstrWord) : xlWord (wordPO w) (wordRest w) (wordXO w) (w.extractLsb' 0 1) = w := by
  have hF : wordXO w ++ w.extractLsb' 0 1 = wordF w := BitVec.extractLsb'_append_extractLsb'_eq_extractLsb' rfl
  rw [xlWord_eq_fWord, hF, fWord_fields]

/-- A word with given fields, each known as the number the decoder matches on. -/
theorem poWord_of_wordPO {w : InstrWord} {po : BitVec 6} (hpo : (wordPO w).toNat = po.toNat) :
    poWord po (w.extractLsb' 0 26) = w := by
  rw [← BitVec.eq_of_toNat_eq hpo, poWord_fields]

theorem fWord_of_fields {w : InstrWord} {po : BitVec 6} {f : BitVec 11} (hpo : (wordPO w).toNat = po.toNat)
    (hf : (wordF w).toNat = f.toNat) : fWord po (wordRest w) f = w := by
  rw [← BitVec.eq_of_toNat_eq hpo, ← BitVec.eq_of_toNat_eq hf, fWord_fields]

theorem xlWord_of_fields {w : InstrWord} {po : BitVec 6} {xo : BitVec 10} (hpo : (wordPO w).toNat = po.toNat)
    (hxo : (wordXO w).toNat = xo.toNat) : xlWord po (wordRest w) xo (w.extractLsb' 0 1) = w := by
  rw [← BitVec.eq_of_toNat_eq hpo, ← BitVec.eq_of_toNat_eq hxo, xlWord_fields]

theorem exists_poWord_iff {po : BitVec 6} {w : InstrWord} : (∃ rest, poWord po rest = w) ↔ wordPO w = po := by
  constructor
  · rintro ⟨rest, rfl⟩
    exact wordPO_poWord po rest
  · rintro rfl
    exact ⟨_, poWord_fields w⟩

theorem exists_fWord_iff {po : BitVec 6} {f : BitVec 11} {w : InstrWord} :
    (∃ rest, fWord po rest f = w) ↔ wordPO w = po ∧ wordF w = f := by
  constructor
  · rintro ⟨rest, rfl⟩
    exact ⟨wordPO_fWord po rest f, wordF_fWord po rest f⟩
  · rintro ⟨rfl, rfl⟩
    exact ⟨_, fWord_fields w⟩

theorem exists_xlWord_iff {po : BitVec 6} {xo : BitVec 10} {w : InstrWord} :
    (∃ rest lk, xlWord po rest xo lk = w) ↔ wordPO w = po ∧ wordXO w = xo := by
  constructor
  · rintro ⟨rest, lk, rfl⟩
    exact ⟨wordPO_xlWord po rest xo lk, wordXO_xlWord po rest xo lk⟩
  · rintro ⟨rfl, rfl⟩
    exact ⟨_, _, xlWord_fields w⟩

/-! ## Masks -/

theorem poWord_and (po po' : BitVec 6) (rest rest' : BitVec 26) :
    poWord po rest &&& poWord po' rest' = poWord (po &&& po') (rest &&& rest') :=
  BitVec.and_append

theorem fWord_and (po po' : BitVec 6) (rest rest' : BitVec 15) (f f' : BitVec 11) :
    fWord po rest f &&& fWord po' rest' f' = fWord (po &&& po') (rest &&& rest') (f &&& f') :=
  calc fWord po rest f &&& fWord po' rest' f'
      = ((po ++ rest) &&& (po' ++ rest')) ++ (f &&& f') := BitVec.and_append
    _ = fWord (po &&& po') (rest &&& rest') (f &&& f') := by rw [BitVec.and_append, fWord]

theorem xlWord_and (po po' : BitVec 6) (rest rest' : BitVec 15) (xo xo' : BitVec 10) (lk lk' : BitVec 1) :
    xlWord po rest xo lk &&& xlWord po' rest' xo' lk' =
      xlWord (po &&& po') (rest &&& rest') (xo &&& xo') (lk &&& lk') := by
  have happend : (xo ++ lk) &&& (xo' ++ lk') = (xo &&& xo') ++ (lk &&& lk') := BitVec.and_append
  simp only [xlWord_eq_fWord, fWord_and, happend]

theorem and_poMask (w : InstrWord) : w &&& 0xFC000000#32 = poWord (wordPO w) 0#26 := by
  have hmask : 0xFC000000#32 = poWord (BitVec.allOnes 6) 0#26 := by decide
  calc w &&& 0xFC000000#32
      = poWord (wordPO w) (w.extractLsb' 0 26) &&& poWord (BitVec.allOnes 6) 0#26 := by rw [poWord_fields, hmask]
    _ = poWord (wordPO w) 0#26 := by simp only [poWord_and, BitVec.and_allOnes, BitVec.and_zero]

theorem and_fMask (w : InstrWord) : w &&& 0xFC0007FF#32 = fWord (wordPO w) 0#15 (wordF w) := by
  have hmask : 0xFC0007FF#32 = fWord (BitVec.allOnes 6) 0#15 (BitVec.allOnes 11) := by decide
  calc w &&& 0xFC0007FF#32
      = fWord (wordPO w) (wordRest w) (wordF w) &&& fWord (BitVec.allOnes 6) 0#15 (BitVec.allOnes 11) := by
        rw [fWord_fields, hmask]
    _ = fWord (wordPO w) 0#15 (wordF w) := by simp only [fWord_and, BitVec.and_allOnes, BitVec.and_zero]

theorem and_xlMask (w : InstrWord) : w &&& 0xFC0007FE#32 = xlWord (wordPO w) 0#15 (wordXO w) 0#1 := by
  have hmask : 0xFC0007FE#32 = xlWord (BitVec.allOnes 6) 0#15 (BitVec.allOnes 10) 0#1 := by decide
  calc w &&& 0xFC0007FE#32
      = xlWord (wordPO w) (wordRest w) (wordXO w) (w.extractLsb' 0 1) &&&
          xlWord (BitVec.allOnes 6) 0#15 (BitVec.allOnes 10) 0#1 := by rw [xlWord_fields, hmask]
    _ = xlWord (wordPO w) 0#15 (wordXO w) 0#1 := by simp only [xlWord_and, BitVec.and_allOnes, BitVec.and_zero]

/-- The mask of a primary opcode tests that field alone (30_encoding.md R52). -/
theorem and_poMask_eq_iff {w : InstrWord} {po : BitVec 6} :
    w &&& 0xFC000000#32 = poWord po 0#26 ↔ wordPO w = po := by
  rw [and_poMask]
  exact ⟨fun h => by simpa using congrArg wordPO h, fun h => by rw [h]⟩

theorem and_fMask_eq_iff {w : InstrWord} {po : BitVec 6} {f : BitVec 11} :
    w &&& 0xFC0007FF#32 = fWord po 0#15 f ↔ wordPO w = po ∧ wordF w = f := by
  rw [and_fMask]
  exact ⟨fun h => ⟨by simpa using congrArg wordPO h, by simpa using congrArg wordF h⟩, fun ⟨hpo, hf⟩ => by rw [hpo, hf]⟩

theorem and_xlMask_eq_iff {w : InstrWord} {po : BitVec 6} {xo : BitVec 10} :
    w &&& 0xFC0007FE#32 = xlWord po 0#15 xo 0#1 ↔ wordPO w = po ∧ wordXO w = xo := by
  rw [and_xlMask]
  exact ⟨fun h => ⟨by simpa using congrArg wordPO h, by simpa using congrArg wordXO h⟩,
    fun ⟨hpo, hxo⟩ => by rw [hpo, hxo]⟩

/-! ## The index of a word by its fields -/

/-- The index of a word is its `F` field above its primary opcode (30_encoding.md R49, 41_indexer.md R63). -/
theorem indexOf_eq_append (w : InstrWord) : indexOf w = wordF w ++ wordPO w := by
  apply BitVec.eq_of_toNat_eq
  have happend : (wordF w ++ wordPO w).toNat = (wordF w).toNat * 2 ^ 6 + (wordPO w).toNat := by
    rw [BitVec.toNat_append, ← Nat.shiftLeft_add_eq_or_of_lt (wordPO w).isLt, Nat.shiftLeft_eq]
  rw [happend, indexOf_toNat, wordF_toNat, wordPO_toNat]

theorem wordF_poWord (po : BitVec 6) (rest : BitVec 26) : wordF (poWord po rest) = rest.extractLsb' 0 11 := by
  apply BitVec.eq_of_toNat_eq
  rw [wordF_toNat, poWord_toNat, BitVec.extractLsb'_toNat, Nat.shiftRight_zero]
  omega

theorem indexOf_poWord (po : BitVec 6) (rest : BitVec 26) : indexOf (poWord po rest) = rest.extractLsb' 0 11 ++ po := by
  rw [indexOf_eq_append, wordF_poWord, wordPO_poWord]

theorem indexOf_fWord (po : BitVec 6) (rest : BitVec 15) (f : BitVec 11) : indexOf (fWord po rest f) = f ++ po := by
  rw [indexOf_eq_append, wordF_fWord, wordPO_fWord]

end Sys2Proof.Machine
end

section
/-!
The decoder and the encoder agree (30_encoding.md R42, R43, R52, R53): on requests both are the command code with its two
operands, and the row of a bare word is the canonical term that encodes to it.
-/

namespace Sys2Proof.Machine

/-! ## Requests -/

/-- The command of a code, with its operands (30_encoding.md R43): the decoder's table, read from a code and two operands
instead of a request. -/
def command (op : BitVec 3) (a : OperandA) (b : OperandB) : Instr :=
  match op.toNat with
  | 0 => .decode a b
  | 1 => .decodeJit a b
  | 2 => .decodeName a b
  | 3 => .isBranch a b
  | 4 => .index a b
  | 5 => .rotmask a b
  | 6 => .tableRead a b
  | _ => .reserved a b

theorem decodeRequest_eq_command (req : Request) : decodeRequest req = command (reqOp req) (reqA req) (reqB req) := rfl

theorem decodeRequest_requestOf (op : BitVec 3) (a : OperandA) (b : OperandB) :
    decodeRequest (requestOf op b a) = command op a b := by
  rw [decodeRequest_eq_command, reqOp_requestOf, reqA_requestOf, reqB_requestOf]

theorem encode_command (op : BitVec 3) (a : OperandA) (b : OperandB) :
    encode (command op a b) = .request (requestOf op b a) := by
  have hop : op = BitVec.ofNat 3 op.toNat := by simp
  have hlt := op.isLt
  rw [hop]
  interval_cases op.toNat <;> rfl

/-- Settles O2: the request is made of the code and the operands of the command it decodes to. -/
theorem encodeOfDecodedRequest : Obligations.EncodeOfDecodedRequest := by
  intro req
  calc encode (decodeRequest req)
      = encode (command (reqOp req) (reqA req) (reqB req)) := by rw [decodeRequest_eq_command]
    _ = .request (requestOf (reqOp req) (reqB req) (reqA req)) := encode_command _ _ _
    _ = .request req := by rw [requestOf_fields]

/-- A request that an instruction encodes to is decoded to it. -/
theorem decodeRequest_of_encode {i : Instr} {req : Request} (h : encode i = .request req) : decodeRequest req = i := by
  cases i with
  | decode a b => cases h; exact decodeRequest_requestOf 0#3 a b
  | decodeJit a b => cases h; exact decodeRequest_requestOf 1#3 a b
  | decodeName a b => cases h; exact decodeRequest_requestOf 2#3 a b
  | isBranch a b => cases h; exact decodeRequest_requestOf 3#3 a b
  | index a b => cases h; exact decodeRequest_requestOf 4#3 a b
  | rotmask a b => cases h; exact decodeRequest_requestOf 5#3 a b
  | tableRead a b => cases h; exact decodeRequest_requestOf 6#3 a b
  | reserved a b => cases h; exact decodeRequest_requestOf 7#3 a b
  | nop => cases h
  | ori rest => cases h
  | add rest => cases h
  | addRc rest => cases h
  | branch rest => cases h
  | bc rest => cases h
  | bclr rest lk => cases h
  | bcctr rest lk => cases h
  | rfid rest lk => cases h

/-- The encoding of a command as a number (30_encoding.md R42). -/
theorem encode_command_requestNumber (op : BitVec 3) (a : OperandA) (b : OperandB) :
    encode (command op a b) = .request (BitVec.ofNat 41 (requestNumber op.toNat a b)) := by
  rw [encode_command, ofNat_requestNumber]

/-- The number of a command is decoded to it. -/
theorem decode_requestNumber (op : BitVec 3) (a : OperandA) (b : OperandB) :
    decode (.request (BitVec.ofNat 41 (requestNumber op.toNat a b))) = command op a b :=
  decodeRequest_of_encode (encode_command_requestNumber op a b)

/-- Settles O3: each encoding is that of the command of its code. -/
theorem requestNumbers : Obligations.RequestNumbers := fun a b =>
  ⟨encode_command_requestNumber 0#3 a b, encode_command_requestNumber 1#3 a b, encode_command_requestNumber 2#3 a b,
    encode_command_requestNumber 3#3 a b, encode_command_requestNumber 4#3 a b, encode_command_requestNumber 5#3 a b,
    encode_command_requestNumber 6#3 a b, encode_command_requestNumber 7#3 a b⟩

/-! ## The rows of a bare word -/

theorem nopWord_eq_poWord : nopWord = poWord 24#6 0#26 := by decide

theorem poWord_eq_nopWord_iff (rest : BitVec 26) : poWord 24#6 rest = nopWord ↔ rest = 0#26 := by
  constructor
  · intro h
    have hlow := congrArg (fun w : InstrWord => w.extractLsb' 0 26) (h.trans nopWord_eq_poWord)
    simpa only [extractLsb'_poWord] using hlow
  · rintro rfl
    exact nopWord_eq_poWord.symm

/-- The no-op word has the primary opcode of `ori`. -/
theorem ne_nopWord_of_wordPO {w : InstrWord} (h : wordPO w ≠ 24#6) : w ≠ nopWord := by
  rintro rfl
  exact h (by decide)

/-- A canonical term is the row of the word it encodes to. -/
theorem rowOfWord_of_encode {i : Instr} {w : InstrWord} (hc : i.canonical = true) (h : encode i = .word w) :
    rowOfWord w = some i := by
  have hne : wordPO w ≠ 24#6 → w ≠ nopWord := ne_nopWord_of_wordPO
  cases i with
  | decode a b => cases h
  | decodeJit a b => cases h
  | decodeName a b => cases h
  | isBranch a b => cases h
  | index a b => cases h
  | rotmask a b => cases h
  | tableRead a b => cases h
  | reserved a b => cases h
  | nop => cases h; rfl
  | ori rest =>
    cases h
    have hrest : rest ≠ 0#26 := by simpa [Instr.canonical] using hc
    simp [rowOfWord, poWord_eq_nopWord_iff, hrest]
  | add rest => cases h; simp [rowOfWord, hne]
  | addRc rest => cases h; simp [rowOfWord, hne]
  | branch rest => cases h; simp [rowOfWord, hne]
  | bc rest => cases h; simp [rowOfWord, hne]
  | bclr rest lk => cases h; simp [rowOfWord, decodeXlWord, hne]
  | bcctr rest lk => cases h; simp [rowOfWord, decodeXlWord, hne]
  | rfid rest lk => cases h; simp [rowOfWord, decodeXlWord, hne]

/-- The rows of PO 19 encode to the word they were read from. -/
theorem encode_of_decodeXlWord {i : Instr} {w : InstrWord} (hpo : (wordPO w).toNat = 19)
    (h : decodeXlWord w = some i) : i.canonical = true ∧ encode i = .word w := by
  unfold decodeXlWord at h
  split at h
  next hxo => cases h; exact ⟨rfl, congrArg Presented.word (xlWord_of_fields hpo hxo)⟩
  next hxo => cases h; exact ⟨rfl, congrArg Presented.word (xlWord_of_fields hpo hxo)⟩
  next hxo => cases h; exact ⟨rfl, congrArg Presented.word (xlWord_of_fields hpo hxo)⟩
  next => cases h

/-- The row of a word is canonical and encodes to that word. -/
theorem encode_of_rowOfWord {i : Instr} {w : InstrWord} (h : rowOfWord w = some i) :
    i.canonical = true ∧ encode i = .word w := by
  unfold rowOfWord at h
  split at h
  next hnop => cases h; exact ⟨rfl, congrArg Presented.word hnop.symm⟩
  next hne =>
    split at h
    next hpo =>
      cases h
      have hw : poWord 24#6 (w.extractLsb' 0 26) = w := poWord_of_wordPO hpo
      have hrest : w.extractLsb' 0 26 ≠ 0#26 := by rwa [Ne, ← poWord_eq_nopWord_iff, hw]
      exact ⟨bne_iff_ne.2 hrest, congrArg Presented.word hw⟩
    next hpo =>
      split at h
      next hf => cases h; exact ⟨rfl, congrArg Presented.word (fWord_of_fields hpo hf)⟩
      next hf => cases h; exact ⟨rfl, congrArg Presented.word (fWord_of_fields hpo hf)⟩
      next => cases h
    next hpo => cases h; exact ⟨rfl, congrArg Presented.word (poWord_of_wordPO hpo)⟩
    next hpo => cases h; exact ⟨rfl, congrArg Presented.word (poWord_of_wordPO hpo)⟩
    next hpo => exact encode_of_decodeXlWord hpo h
    next => cases h

/-- The row of a word, said once: the canonical term that encodes to it. -/
theorem rowOfWord_eq_some_iff {i : Instr} {w : InstrWord} :
    rowOfWord w = some i ↔ i.canonical = true ∧ encode i = .word w :=
  ⟨encode_of_rowOfWord, fun ⟨hc, h⟩ => rowOfWord_of_encode hc h⟩

theorem decodeWord_of_row {i : Instr} {w : InstrWord} (h : rowOfWord w = some i) : decodeWord w = i := by
  simp [decodeWord, h]

/-- A word without a row is `DECODE w` (notes/assumptions/13.md). -/
theorem decodeWord_of_no_row {w : InstrWord} (h : rowOfWord w = none) : decodeWord w = .decode w 0#6 := by
  simp [decodeWord, h]

/-- Settles O1: a request is the code and the operands of its command, a bare word the row of its canonical term. -/
theorem decodeOfEncode : Obligations.DecodeOfEncode := by
  intro i hc
  cases h : encode i with
  | request req => exact decodeRequest_of_encode h
  | word w => exact decodeWord_of_row (rowOfWord_of_encode hc h)

/-- What encodes a canonical instruction is decoded to it. -/
theorem decode_of_encode {i : Instr} {p : Presented} (hc : i.canonical = true) (h : encode i = p) : decode p = i :=
  h ▸ decodeOfEncode i hc

/-- Settles O4: each request or word is what its instruction encodes to. -/
theorem knownWordsDecode : Obligations.KnownWordsDecode :=
  ⟨decode_of_encode rfl rfl, decode_of_encode rfl rfl, decode_of_encode rfl rfl, decode_of_encode rfl rfl,
    decode_of_encode rfl rfl, decode_of_encode rfl rfl, decode_of_encode rfl rfl, decode_of_encode rfl rfl,
    decode_of_encode rfl rfl, decode_of_encode rfl rfl, decode_of_encode rfl rfl⟩

end Sys2Proof.Machine
end

section
/-!
Which bare words each row of the opcode table takes: a row's words are those its terms encode to, and these are the words
with the row's fields, which its mask tests (30_encoding.md R52, R53).
-/

namespace Sys2Proof.Machine

/-- A bare word decodes to an instruction of a row exactly where that one is canonical and encodes to it. -/
theorem decode_word_eq_iff {i : Instr} {v : InstrWord} (hi : encode i = .word v) (w : InstrWord) :
    decode (.word w) = i ↔ i.canonical = true ∧ v = w := by
  constructor
  · intro h
    cases hrow : rowOfWord w with
    | some j =>
      obtain rfl : j = i := (decodeWord_of_row hrow).symm.trans h
      obtain ⟨hc, henc⟩ := encode_of_rowOfWord hrow
      exact ⟨hc, Presented.word.inj (hi.symm.trans henc)⟩
    | none =>
      obtain rfl : .decode w 0#6 = i := (decodeWord_of_no_row hrow).symm.trans h
      cases hi
  · rintro ⟨hc, rfl⟩
    exact decode_of_encode hc hi

/-- The words a family of canonical terms takes are the words they encode to. -/
theorem exists_decode_word_iff {α : Type} {i : α → Instr} {v : α → InstrWord} (hi : ∀ r, encode (i r) = .word (v r))
    (hc : ∀ r, (i r).canonical = true) (w : InstrWord) : (∃ r, decode (.word w) = i r) ↔ ∃ r, v r = w :=
  exists_congr fun r => (decode_word_eq_iff (hi r) w).trans (and_iff_right (hc r))

/-- `ori` takes the words of its primary opcode but the no-op word (notes/assumptions/14.md). -/
theorem exists_decode_word_eq_ori_iff (w : InstrWord) :
    (∃ r, decode (.word w) = .ori r) ↔ wordPO w = 24#6 ∧ w ≠ nopWord := by
  have hrow : ∀ r, decode (.word w) = .ori r ↔ r ≠ 0#26 ∧ poWord 24#6 r = w := fun r =>
    (decode_word_eq_iff rfl w).trans (and_congr_left' bne_iff_ne)
  constructor
  · rintro ⟨r, h⟩
    obtain ⟨hr, rfl⟩ := (hrow r).1 h
    exact ⟨wordPO_poWord _ r, mt (poWord_eq_nopWord_iff r).1 hr⟩
  · rintro ⟨hpo, hne⟩
    obtain ⟨r, rfl⟩ := exists_poWord_iff.2 hpo
    exact ⟨r, (hrow r).2 ⟨mt (poWord_eq_nopWord_iff r).2 hne, rfl⟩⟩

/-- Settles O5: a row takes the words with its fields, and each mask tests those fields. -/
theorem wordRowsByMatchAndMask : Obligations.WordRowsByMatchAndMask := by
  intro w
  have hpo : ∀ po : BitVec 6, (∃ r, poWord po r = w) ↔ w &&& 0xFC000000#32 = poWord po 0#26 := fun _ =>
    exists_poWord_iff.trans and_poMask_eq_iff.symm
  have hf : ∀ (po : BitVec 6) (f : BitVec 11), (∃ r, fWord po r f = w) ↔ w &&& 0xFC0007FF#32 = fWord po 0#15 f :=
    fun _ _ => exists_fWord_iff.trans and_fMask_eq_iff.symm
  have hxl : ∀ (po : BitVec 6) (xo : BitVec 10),
      (∃ r lk, xlWord po r xo lk = w) ↔ w &&& 0xFC0007FE#32 = xlWord po 0#15 xo 0#1 :=
    fun _ _ => exists_xlWord_iff.trans and_xlMask_eq_iff.symm
  refine ⟨?nop, ?ori, ?add, ?addRc, ?branch, ?bc, ?bclr, ?bcctr, ?rfid⟩
  case nop => exact (decode_word_eq_iff rfl w).trans ((and_iff_right rfl).trans eq_comm)
  case ori => exact (exists_decode_word_eq_ori_iff w).trans (and_congr_left' and_poMask_eq_iff.symm)
  case add => exact (exists_decode_word_iff (fun _ => rfl) (fun _ => rfl) w).trans (hf 31#6 0x214#11)
  case addRc => exact (exists_decode_word_iff (fun _ => rfl) (fun _ => rfl) w).trans (hf 31#6 0x215#11)
  case branch => exact (exists_decode_word_iff (fun _ => rfl) (fun _ => rfl) w).trans (hpo 18#6)
  case bc => exact (exists_decode_word_iff (fun _ => rfl) (fun _ => rfl) w).trans (hpo 16#6)
  case bclr =>
    exact (exists_congr fun _ => exists_decode_word_iff (fun _ => rfl) (fun _ => rfl) w).trans (hxl 19#6 16#10)
  case bcctr =>
    exact (exists_congr fun _ => exists_decode_word_iff (fun _ => rfl) (fun _ => rfl) w).trans (hxl 19#6 528#10)
  case rfid =>
    exact (exists_congr fun _ => exists_decode_word_iff (fun _ => rfl) (fun _ => rfl) w).trans (hxl 19#6 18#10)

end Sys2Proof.Machine
end

section
/-!
What the block does with a decoded instruction: the two commands whose outcome no table decides (30_encoding.md R46, R47;
45_branch_classifier.md R93), the placement of an instruction for the next step (notes/assumptions/15.md), and the answers
once READY to commands and bare words (44_dispatcher.md R88 to R90; notes/assumptions/12.md).
-/

namespace Sys2Proof.Machine

/-! ## IS_BRANCH and the reserved code -/

theorem refuses_of_exec {i : Instr} {s : State} (h : exec i s = .next s.refuse) : refuses i s := ⟨_, rfl, h⟩

theorem exec_isBranch_of_not_inRange {a : OperandA} (h : indexInRange a = false) (b : OperandB) (s : State) :
    exec (.isBranch a b) s = .next s.refuse := by
  simp [exec, execIsBranch, h]

/-- The range check of an index operand (30_encoding.md R46 (a), (b)). -/
theorem indexInRange_iff (a : OperandA) : indexInRange a = true ↔ a >>> 17 = 0#32 := by
  have h := a.isLt
  simp only [indexInRange, beq_iff_eq, ← BitVec.toNat_inj, BitVec.extractLsb'_toNat, BitVec.toNat_ushiftRight,
    BitVec.toNat_ofNat, Nat.shiftRight_eq_div_pow]
  omega

/-- The branch verdict by the numbers of the two opcode fields (45_branch_classifier.md R93). -/
theorem isBranchIndex_iff (idx : DecodeIndex) :
    isBranchIndex idx = true ↔
      (idxPO idx).toNat = 18 ∨ (idxPO idx).toNat = 16 ∨ ((idxPO idx).toNat = 19 ∧ (idxXO idx).toNat = 16) ∨
        ((idxPO idx).toNat = 19 ∧ (idxXO idx).toNat = 528) ∨ ((idxPO idx).toNat = 19 ∧ (idxXO idx).toNat = 18) := by
  simp only [isBranchIndex, Bool.or_eq_true, Bool.and_eq_true, beq_iff_eq, ← BitVec.toNat_inj, BitVec.toNat_ofNat,
    Nat.reducePow, Nat.reduceMod, and_or_left, or_assoc]

/-- Settles O12: the range check decides between refusal and answer, the opcode fields between the two answers. -/
theorem isBranchCommand : Obligations.IsBranchCommand := by
  intro a b s idx po xo isBr
  refine ⟨decode_requestNumber 3#3 a b, fun hrange => ?_, fun hrange hbr => ?_, fun hrange hbr => ?_⟩
  · exact refuses_of_exec (exec_isBranch_of_not_inRange (Bool.eq_false_iff.2 (mt (indexInRange_iff a).1 hrange)) b s)
  · rw [exec_isBranch_of_inRange ((indexInRange_iff a).2 hrange), (isBranchIndex_iff (indexOperand a)).2 hbr]
    rfl
  · rw [exec_isBranch_of_inRange ((indexInRange_iff a).2 hrange),
      Bool.eq_false_iff.2 (mt (isBranchIndex_iff (indexOperand a)).1 hbr)]
    rfl

/-- Settles O14: the request number decodes to the reserved code, whose meaning is the refusal. -/
theorem reservedCommand : Obligations.ReservedCommand := fun a b _ =>
  ⟨decode_requestNumber 7#3 a b, refuses_of_exec rfl⟩

/-! ## The placement of an instruction -/

theorem decodeTableWord_of_presentBits {nbits w : Nat} {p : Presented} (h : presentBits nbits w = .ok p) :
    decodeTableWord nbits w = some (decode p) := by
  simp only [decodeTableWord, h]

theorem withFetchWord_of_presentBits {nbits w : Nat} {p : Presented} (h : presentBits nbits w = .ok p) (s : State) :
    s.withFetchWord nbits w =
      { s with
        ports := s.ports.set fetchPort { pending := some p, response := none, marks := none }
        agenda := .serve fetchPort :: s.agenda } := by
  simp only [State.withFetchWord, State.place, h]

theorem serve_of_pendingAt {s : State} {n : Nat} {p : Presented} (h : s.pendingAt n = some p) :
    s.serve n = exec (decode p) { s with active := n } := by
  simp only [State.serve, h]

theorem pendingAt_of_getElem? {s : State} {n : Nat} {q : Port} {p : Presented} (h : s.ports[n]? = some q)
    (hq : q.pending = some p) : s.pendingAt n = some p := by
  simp only [State.pendingAt, h, hq]

/-- Settles O7: the placed request is pending on the fetch port, and to serve that port is the step's move. -/
theorem stepRunsFetchWord : Obligations.StepRunsFetchWord := by
  intro s nbits w p hports hp
  refine ⟨decodeTableWord_of_presentBits hp, ?_⟩
  rw [withFetchWord_of_presentBits hp, step_of_agenda rfl]
  exact serve_of_pendingAt (pendingAt_of_getElem? (List.getElem?_set_self hports) rfl)

/-! ## Commands once READY -/

theorem respondWhenReady_eq_answered {s : State} (h : s.phase = .ready) {v v' : Data} (hv : v = v') :
    s.respondWhenReady v = s.answered v' :=
  hv ▸ respondWhenReady_ready h v

theorem exec_decode_of_read {s : State} (hready : s.phase = .ready) {w : InstrWord} (hw : w ≠ nopWord) {h : Nat}
    (hread : s.it.read (indexOf w) = some h) (b : OperandB) :
    exec (.decode w b) s = .next (s.answered (BitVec.ofNat 64 h)) := by
  have hdata : s.decodeData w = BitVec.ofNat 64 h :=
    (decodeData_of_ne hw).trans (entryData_of_read (sel := .it) hread)
  exact congrArg Host.Outcome.next (respondWhenReady_eq_answered hready hdata)

theorem exec_decodeName_of_read {s : State} (hready : s.phase = .ready) {w : InstrWord} {n : Nat}
    (hread : s.nt.read (indexOf w) = some n) (b : OperandB) :
    exec (.decodeName w b) s = .next (s.answered (BitVec.ofNat 64 n)) := by
  have hdata : s.nameData w = BitVec.ofNat 64 n := entryData_of_read (sel := .nt) hread
  exact congrArg Host.Outcome.next (respondWhenReady_eq_answered hready hdata)

/-- Once READY the invariant says that every index holds its built entries. -/
theorem holds_built_of_inv {s : State} (hs : s.Inv) (hready : s.phase = .ready) (idx : DecodeIndex) :
    s.holds idx (built s.params idx) :=
  (tablesAsBuilt_ready hready).1 hs.tables idx

/-- Every interpreter id of the built tables fits its width (43_table_set.md R78 W7). -/
theorem built_interp_lt {p : Params} (h : paramsWf p = true) (idx : DecodeIndex) :
    (built p idx).interp < 2 ^ p.hidW := by
  rw [built_eq_elim]
  cases hlast : lastCover p idx with
  | none => exact Nat.two_pow_pos _
  | some ge =>
    have hids := ids_of_wf h (lastCover_mem hlast).1
    simp only [patternIdsOk, interpIdOk, Bool.and_eq_true, decide_eq_true_eq] at hids
    obtain ⟨⟨⟨⟨⟨⟨hip, -⟩, hirc, -⟩, -⟩, -⟩, -⟩, -⟩ := hids
    simp only [Option.elim, pick]
    split
    · exact hirc
    · exact hip

/-- Two interpreter ids of the built tables that differ are different responses, since a response holds a whole id. -/
theorem ofNat_built_interp_ne {p : Params} (h : paramsWf p = true) {i j : DecodeIndex}
    (hne : (built p i).interp ≠ (built p j).interp) :
    BitVec.ofNat 64 (built p i).interp ≠ BitVec.ofNat 64 (built p j).interp := by
  obtain ⟨⟨-, hwidth⟩, -⟩ := widths_of_wf h
  have hlt : ∀ idx, (built p idx).interp < 2 ^ 64 := fun idx =>
    (built_interp_lt h idx).trans_le (Nat.pow_le_pow_right (by decide) hwidth)
  intro heq
  have hmod := congrArg BitVec.toNat heq
  rw [BitVec.toNat_ofNat, BitVec.toNat_ofNat, Nat.mod_eq_of_lt (hlt i), Nat.mod_eq_of_lt (hlt j)] at hmod
  exact hne hmod

/-- The entries of `add` and `add.` differ in a conforming configuration (check W11). -/
theorem interp_ne_of_checkW11 {p : Params} (h : checkW11 p = true) :
    (built p 0x0851F#17).interp ≠ (built p 0x0855F#17).interp := by
  unfold checkW11 at h
  split at h
  · exact of_decide_eq_true (Bool.and_eq_true_iff.1 h).2
  · cases h

/-- Settles O23: the commands answer the built entries of indices 0x18, 0x0851F and 0x0855F, of which W10 and W11 speak. -/
theorem conformingConfigurationDecodes : Obligations.ConformingConfigurationDecodes := by
  intro s b hs hready hW10 hW11
  have hadd : indexOf 0x7C000214#32 = 0x0851F#17 := by decide
  have haddRc : indexOf 0x7C000215#32 = 0x0855F#17 := by decide
  obtain ⟨-, -, hname⟩ := holds_built_of_inv hs hready (indexOf 0x60000000#32)
  obtain ⟨hplain, -⟩ := holds_built_of_inv hs hready 0x0851F#17
  obtain ⟨hrc, -⟩ := holds_built_of_inv hs hready 0x0855F#17
  rw [← hadd] at hplain
  rw [← haddRc] at hrc
  exact ⟨⟨_, exec_decodeName_of_read hready hname b, of_decide_eq_true hW10⟩, _, _,
    ofNat_built_interp_ne hs.params (interp_ne_of_checkW11 hW11),
    exec_decode_of_read hready (by decide) hplain b, exec_decode_of_read hready (by decide) hrc b⟩

/-! ## Bare words once READY -/

/-- The primary opcodes of `ori`, `add` and `add.` are no branches (45_branch_classifier.md R93). -/
theorem isBranchIndex_indexOf_eq_false {w : InstrWord} (h : wordPO w = 24#6 ∨ wordPO w = 31#6) :
    isBranchIndex (indexOf w) = false := by
  obtain h | h := h <;> simp [isBranchIndex, h]

theorem marksOf_of_read {s : State} {w : InstrWord} {j n : Nat} (hj : s.jt.read (indexOf w) = some j)
    (hn : s.nt.read (indexOf w) = some n) :
    s.marksOf w =
      { index := indexOf w, branch := isBranchIndex (indexOf w)
        jit := BitVec.ofNat 64 j, name := BitVec.ofNat 64 n } := by
  have hjit : s.jitData w = BitVec.ofNat 64 j := entryData_of_read (sel := .jt) hj
  have hname : s.nameData w = BitVec.ofNat 64 n := entryData_of_read (sel := .nt) hn
  rw [State.marksOf, hjit, hname]

/-- Settles O24: the data of the no-op word is the fast path's, the marks are those of index 0x18. -/
theorem nopWordAnswer : Obligations.NopWordAnswer := by
  intro s j n hready hj hn
  have hanswer := answerWord_ready hready nopWord
  rw [decodeData_nop, marksOf_of_read hj hn] at hanswer
  exact congrArg Host.Outcome.next hanswer

/-- A bare word other than the no-op word is answered from the entries of its index. -/
theorem answersWord_of_exec {i : Instr} {s : State} {w : InstrWord} (hready : s.phase = .ready)
    (hexec : exec i s = .next (s.answerWord w)) (hw : w ≠ nopWord) :
    answersWord i (indexOf w) (isBranchIndex (indexOf w)) s := by
  intro h j n hh hj hn
  rw [hexec, answerWord_ready hready, decodeData_of_ne hw, entryData_of_read (sel := .it) hh, marksOf_of_read hj hn]
  rfl

/-- Settles O25: none of the three rows is the no-op word or a branch, and their indices are those of their fields. -/
theorem configuredWordsAnswer : Obligations.ConfiguredWordsAnswer := by
  intro s hready
  refine ⟨fun r hr => ?ori, fun r => ?add, fun r => ?addRc⟩
  case ori =>
    have h := answersWord_of_exec (i := .ori r) hready rfl (mt (poWord_eq_nopWord_iff r).1 hr)
    rwa [isBranchIndex_indexOf_eq_false (.inl (wordPO_poWord _ r)), indexOf_poWord] at h
  case add =>
    have h := answersWord_of_exec (i := .add r) hready rfl (ne_nopWord_of_wordPO (by simp))
    rwa [isBranchIndex_indexOf_eq_false (.inr (wordPO_fWord ..)), indexOf_fWord] at h
  case addRc =>
    have h := answersWord_of_exec (i := .addRc r) hready rfl (ne_nopWord_of_wordPO (by simp))
    rwa [isBranchIndex_indexOf_eq_false (.inr (wordPO_fWord ..)), indexOf_fWord] at h

end Sys2Proof.Machine
end

section
/-!
RotateMask (40_rotate_mask.md R61, R62): the mask is a block of ones at the top of the word, rotated into place, so that
each of its bits is a comparison of two distances from `mb`, counted modulo 64.
-/

namespace Sys2Proof.Machine

/-! ## The range check -/

/-- The range check of ROTMASK (30_encoding.md R46 (d)). -/
theorem mbInRange_iff (a : OperandA) : mbInRange a = true ↔ a >>> 6 = 0#32 := by
  have h := a.isLt
  simp only [mbInRange, beq_iff_eq, ← BitVec.toNat_inj, BitVec.extractLsb'_toNat, BitVec.toNat_ushiftRight,
    BitVec.toNat_ofNat, Nat.shiftRight_eq_div_pow]
  omega

/-- In range `mb` is the whole operand. -/
theorem mbOperand_toNat_of_inRange {a : OperandA} (h : a >>> 6 = 0#32) : (mbOperand a).toNat = a.toNat := by
  have hhigh := congrArg BitVec.toNat h
  simp only [BitVec.toNat_ushiftRight, BitVec.toNat_ofNat, Nat.shiftRight_eq_div_pow] at hhigh
  simp only [mbOperand, BitVec.extractLsb'_toNat, Nat.shiftRight_zero]
  omega

theorem exec_rotmask_of_not_inRange {a : OperandA} (h : mbInRange a = false) (b : OperandB) (s : State) :
    exec (.rotmask a b) s = .next s.refuse := by
  simp [exec, execRotmask, h]

/-! ## The mask as a rotated block of ones -/

/-- The model's rotation is the library's (00_scope.md R14). -/
theorem rotr64_eq_rotateRight (x : Data) {n : Nat} (h : n < 64) : rotr64 x n = x.rotateRight n := by
  rw [rotr64, BitVec.rotateRight_def, Nat.mod_eq_of_lt h]
  split
  next hn => subst hn; simp
  next => rfl

/-- The shift amount of the formula, the complement of a difference in 6 bits, as a number. -/
theorem toNat_not_sub (mb me : BitVec 6) : (~~~(me - mb)).toNat = 63 - (me.toNat + 64 - mb.toNat) % 64 := by
  rw [BitVec.toNat_not, BitVec.toNat_sub]
  omega

theorem rotateMask_eq_rotateRight (mb me : BitVec 6) :
    rotateMask mb me =
      (BitVec.allOnes 64 <<< (63 - (me.toNat + 64 - mb.toNat) % 64)).rotateRight mb.toNat := by
  rw [rotateMask, rotr64_eq_rotateRight _ mb.isLt, toNat_not_sub]
  rfl

/-! ## The bits of the mask -/

/-- A shifted block of ones has the bits from the shift amount on. -/
theorem getLsbD_allOnes_shiftLeft (n p : Nat) :
    (BitVec.allOnes 64 <<< n).getLsbD p = true ↔ n ≤ p ∧ p < 64 := by
  simp only [BitVec.getLsbD_shiftLeft, BitVec.getLsbD_allOnes, Bool.and_eq_true, Bool.not_eq_true', decide_eq_true_eq,
    decide_eq_false_iff_not]
  omega

/-- The two ranges of a rotated word's bits, as one position modulo 64. -/
theorem getLsbD_rotateRight_mod (x : Data) {r p : Nat} (hr : r < 64) (hp : p < 64) :
    (x.rotateRight r).getLsbD p = x.getLsbD ((p + r) % 64) := by
  rw [BitVec.getLsbD_rotateRight, Nat.mod_eq_of_lt hr]
  by_cases h : p < 64 - r
  · rw [decide_eq_true h, cond_true, Nat.mod_eq_of_lt (by omega), Nat.add_comm]
  · have hwrap : (p + r) % 64 = p - (64 - r) := by omega
    simp [h, hp, hwrap]

/-- The set form of R62 for the MSB-0 bit `i`, in natural numbers. -/
theorem getLsbD_rotateMask_iff (mb me : BitVec 6) {i : Nat} (hi : i < 64) :
    (rotateMask mb me).getLsbD (63 - i) = true ↔ (i + 64 - mb.toNat) % 64 ≤ (me.toNat + 64 - mb.toNat) % 64 := by
  have hmb := mb.isLt
  rw [rotateMask_eq_rotateRight, getLsbD_rotateRight_mod _ hmb (by omega), getLsbD_allOnes_shiftLeft]
  omega

/-- The MSB-0 bits `mb` through `me` are set, wrapping where `me < mb` (R61). -/
theorem getLsbD_rotateMask_iff_between (mb me : BitVec 6) {i : Nat} (hi : i < 64) :
    (rotateMask mb me).getLsbD (63 - i) = true ↔
      if mb.toNat ≤ me.toNat then mb.toNat ≤ i ∧ i ≤ me.toNat else mb.toNat ≤ i ∨ i ≤ me.toNat := by
  have hmb := mb.isLt
  have hme := me.isLt
  rw [getLsbD_rotateMask_iff mb me hi]
  split <;> omega

/-- The MSB-0 bit `mb` is set, its distance from `mb` being 0. -/
theorem rotateMask_ne_zero (mb me : BitVec 6) : rotateMask mb me ≠ 0#64 := by
  have hdist : (mb.toNat + 64 - mb.toNat) % 64 ≤ (me.toNat + 64 - mb.toNat) % 64 := by omega
  have hbit := (getLsbD_rotateMask_iff mb me mb.isLt).2 hdist
  intro hzero
  rw [hzero, BitVec.getLsbD_zero] at hbit
  exact Bool.false_ne_true hbit

/-- Settles O10: the range check decides between refusal and answer, and the answer is the rotated block of ones. -/
theorem rotmaskCommand : Obligations.RotmaskCommand := by
  intro a b s
  refine ⟨decode_requestNumber 5#3 a b, fun hrange => ?refused, fun hrange => ?answered⟩
  case refused =>
    exact refuses_of_exec (exec_rotmask_of_not_inRange (Bool.eq_false_iff.2 (mt (mbInRange_iff a).1 hrange)) b s)
  case answered =>
    intro mb me d m0 mask
    have hmb : (mbOperand a).toNat = mb := mbOperand_toNat_of_inRange hrange
    have hmask : mask = rotateMask (mbOperand a) b := by rw [rotateMask_eq_rotateRight, hmb]
    rw [hmask, ← hmb]
    exact ⟨exec_rotmask_of_inRange ((mbInRange_iff a).2 hrange) b s, rotateMask_ne_zero _ _,
      fun i hi => getLsbD_rotateMask_iff_between _ _ hi⟩

/-! ## The set form, at an LSB-0 position -/

/-- The set form as R62 writes it, with the differences in the integers. -/
theorem getLsbD_rotateMask_iff_emod (mb me : BitVec 6) {p : Nat} (hp : p < 64) :
    (rotateMask mb me).getLsbD p = true ↔
      (((63 - p : Nat) : Int) - (mb.toNat : Int)) % 64 ≤ ((me.toNat : Int) - (mb.toNat : Int)) % 64 := by
  have hmb := mb.isLt
  have hbit := getLsbD_rotateMask_iff mb me (i := 63 - p) (by omega)
  rw [Nat.sub_sub_self (by omega)] at hbit
  rw [hbit]
  omega

/-- The first property of the source: a mask from bit `mb` to itself is that one bit (R61, R62). -/
theorem getLsbD_rotateMask_self (mb : BitVec 6) (p : Nat) :
    (rotateMask mb mb).getLsbD p = true ↔ p = 63 - mb.toNat := by
  have hmb := mb.isLt
  by_cases hp : p < 64
  · rw [getLsbD_rotateMask_iff_emod mb mb hp]
    omega
  · rw [BitVec.getLsbD_of_ge _ _ (by omega)]
    simp only [Bool.false_eq_true, false_iff]
    omega

/-- The second property of the source: a mask with `me < mb` wraps around (R61, R62). -/
theorem getLsbD_rotateMask_of_lt {mb me : BitVec 6} (h : me < mb) {p : Nat} (hp : p < 64) :
    (rotateMask mb me).getLsbD p = true ↔ mb.toNat ≤ 63 - p ∨ 63 - p ≤ me.toNat := by
  have hbit := getLsbD_rotateMask_iff_between mb me (i := 63 - p) (by omega)
  rwa [if_neg (Nat.not_le.2 h), Nat.sub_sub_self (by omega)] at hbit

/-- Settles O11: the set form, and the two properties read off it. -/
theorem rotateMaskSetForm : Obligations.RotateMaskSetForm :=
  ⟨fun mb me _ => getLsbD_rotateMask_iff_emod mb me, getLsbD_rotateMask_self 0#6,
    fun _ _ hlt _ => getLsbD_rotateMask_of_lt hlt⟩

end Sys2Proof.Machine
end

section
/-!
OpcodeIndexer (41_indexer.md R63 to R65): the index of a word is its `F` field above its primary opcode, so the words of an
index are those with these two fields and any bits 25:11.
-/

namespace Sys2Proof.Machine

/-! ## The command INDEX -/

/-- Settles O8: the request number decodes to INDEX, whose answer is `indexOf w`, and that is the field form (R49). -/
theorem indexCommand : Obligations.IndexCommand := fun w b _ =>
  ⟨decode_requestNumber 4#3 w b, rfl, indexOf_eq_append w⟩

/-! ## The words of an index -/

theorem idxF_append_idxPO (idx : DecodeIndex) : idxF idx ++ idxPO idx = idx :=
  (BitVec.extractLsb'_append_extractLsb'_eq_extractLsb' rfl).trans BitVec.extractLsb'_eq_self

/-- A word has an index when its two kept fields are the index's. -/
theorem indexOf_eq_iff {w : InstrWord} {idx : DecodeIndex} :
    indexOf w = idx ↔ wordPO w = idxPO idx ∧ wordF w = idxF idx := by
  constructor
  · rintro rfl
    exact ⟨(idxPO_indexOf w).symm, (idxF_indexOf w).symm⟩
  · rintro ⟨hpo, hf⟩
    rw [indexOf_eq_append, hpo, hf, idxF_append_idxPO]

/-- Two words have one index when they agree outside bits 25:11 (R64). -/
theorem indexOf_eq_indexOf_iff {w w' : InstrWord} :
    indexOf w = indexOf w' ↔ wordPO w = wordPO w' ∧ wordF w = wordF w' := by
  rw [indexOf_eq_iff, idxPO_indexOf, idxF_indexOf]

/-- The word of R65 is the word of its three fields. -/
theorem wordOfIndex_eq_fWord (idx : DecodeIndex) (rest : BitVec 15) :
    wordOfIndex idx rest = fWord (idxPO idx) rest (idxF idx) := by
  calc wordOfIndex idx rest
      = (idxPO idx ++ rest ++ idxF idx).setWidth 32 := by
        rw [BitVec.setWidth_append_append_eq_shiftLeft_setWidth_or, wordOfIndex]
    _ = fWord (idxPO idx) rest (idxF idx) := BitVec.setWidth_eq _

@[simp] theorem wordRest_wordOfIndex (idx : DecodeIndex) (rest : BitVec 15) :
    wordRest (wordOfIndex idx rest) = rest := by
  rw [wordOfIndex_eq_fWord, wordRest_fWord]

/-- The words of an index are the words `word(idx, rest)` (R65). -/
theorem exists_wordOfIndex_iff {idx : DecodeIndex} {w : InstrWord} :
    (∃ rest, wordOfIndex idx rest = w) ↔ indexOf w = idx := by
  simp only [wordOfIndex_eq_fWord, exists_fWord_iff, indexOf_eq_iff]

theorem wordOfIndex_injective (idx : DecodeIndex) : Function.Injective (wordOfIndex idx) :=
  Function.LeftInverse.injective (wordRest_wordOfIndex idx)

/-- An index has as many words as there are values of the dropped bits. -/
theorem ncard_words_of_index (idx : DecodeIndex) : Set.ncard {w : InstrWord | indexOf w = idx} = 2 ^ 15 := by
  have hrange : {w : InstrWord | indexOf w = idx} = Set.range (wordOfIndex idx) :=
    Set.ext fun _ => exists_wordOfIndex_iff.symm
  calc Set.ncard {w : InstrWord | indexOf w = idx}
      = Nat.card (BitVec 15) := by rw [hrange, Set.ncard_range_of_injective (wordOfIndex_injective idx)]
    _ = Nat.card (Fin (2 ^ 15)) := Nat.card_congr BitVec.equivFin.toEquiv
    _ = 2 ^ 15 := Nat.card_fin _

/-- Settles O9: an index holds the two kept fields and nothing else, and its words are the words of R65, one for each value
of the dropped bits. -/
theorem indexDropsMiddleBits : Obligations.IndexDropsMiddleBits :=
  ⟨fun _ _ => indexOf_eq_indexOf_iff, ncard_words_of_index, fun _ rest => exists_wordOfIndex_iff.1 ⟨rest, rfl⟩⟩

end Sys2Proof.Machine
end

section
/-!
PatternExpander (42_pattern_expander.md R68 to R73, R76): the enumeration of a pattern gives each index once, so a cover has
as many indices as its enumeration has places; the other forms of a normal pattern's cover; and the handler an index gets.
-/

namespace Sys2Proof.Machine

/-! ## The enumeration gives each index once -/

/-- A number of two digits gives both back. -/
theorem digits_div_mod {hi lo b : Nat} (hlo : lo < b) : (hi * b + lo) / b = hi ∧ (hi * b + lo) % b = lo :=
  (Nat.div_mod_unique (Nat.zero_lt_of_lt hlo)).2 ⟨by ring, hlo⟩

/-- The place of the F value of place `n` is `n`. -/
theorem placeOfF_expandF {g : Group} {e : Pattern} (h : normalOk g e) (n : Nat) : placeOfF g e (expandF g e n) = n := by
  have hvalue := value_lt_of_normalOk h
  obtain ⟨hdiv, hmod⟩ := digits_div_mod (hi := n / 2 ^ g.sh * 2 ^ (g.count - e.magn) + e.value)
    (Nat.mod_lt n (Nat.two_pow_pos g.sh))
  rw [placeOfF, expandF_eq hvalue, hdiv, hmod, (digits_div_mod hvalue).1, Nat.div_add_mod']

/-- The places of a normal pattern's enumeration give different indices (42_pattern_expander.md R70). -/
theorem expand_injOn_of_normalOk {g : Group} {e : Pattern} (h : normalOk g e) :
    Set.InjOn (expand g e) (Set.Iio (expansions g e)) := by
  intro m hm n hn heq
  have hop := mainOp_lt_of_normalOk h
  have hidx := congrArg BitVec.toNat heq
  rw [expand_normal_toNat h (expandF_lt h hm), expand_normal_toNat h (expandF_lt h hn)] at hidx
  have hF : expandF g e m = expandF g e n := by omega
  rw [← placeOfF_expandF h m, hF, placeOfF_expandF h n]

/-- The places of a saturated pattern's enumeration give different indices (42_pattern_expander.md R71). -/
theorem expand_injOn_of_saturatedOk {g : Group} {e : Pattern} (h : saturatedOk g e) :
    Set.InjOn (expand g e) (Set.Iio (expansions g e)) := by
  rw [expansions_saturated h.1]
  intro m hm n hn heq
  have hidx := congrArg BitVec.toNat heq
  rw [expand_saturated_toNat h hm, expand_saturated_toNat h hn] at hidx
  omega

/-- The places of a fitting pattern's enumeration give different indices. -/
theorem expand_injOn {g : Group} {e : Pattern} (h : normalOk g e ∨ saturatedOk g e) :
    Set.InjOn (expand g e) (Set.Iio (expansions g e)) :=
  h.elim expand_injOn_of_normalOk expand_injOn_of_saturatedOk

/-- Settles O39: the enumeration reaches exactly the covered indices, and each from one place only. -/
theorem buildVisitsEachCoveredIndexOnce : Obligations.BuildVisitsEachCoveredIndexOnce := by
  intro g e h idx
  rw [covers_iff_expand h]
  constructor
  · rintro ⟨n, hn, hidx⟩
    exact ⟨n, ⟨hn, hidx⟩, fun m ⟨hm, hm'⟩ => expand_injOn h hm hn (hm'.trans hidx.symm)⟩
  · rintro ⟨n, hn, -⟩
    exact ⟨n, hn⟩

/-! ## How many indices a pattern covers -/

/-- A fitting pattern covers as many indices as the build writes for it (70_reset_and_hazards.md R111). -/
theorem ncard_covers {g : Group} {e : Pattern} (h : normalOk g e ∨ saturatedOk g e) :
    Set.ncard {idx : DecodeIndex | covers g e idx = true} = expansions g e := by
  have himage : {idx : DecodeIndex | covers g e idx = true} = expand g e '' Set.Iio (expansions g e) :=
    Set.ext fun idx => covers_iff_expand h idx
  rw [himage, (expand_injOn h).ncard_image, Set.ncard_eq_toFinset_card', Set.toFinset_Iio, Nat.card_Iio]

/-- The build writes an index for each value of the 11 bits of F that the pattern's value leaves free. -/
theorem expansions_eq_two_pow {g : Group} {e : Pattern} (h : normalOk g e) :
    expansions g e = 2 ^ (11 - (g.count - e.magn)) := by
  obtain ⟨hsh, -, hcount, hmagn, -⟩ := h
  rw [expansions_normal hsh, ← pow_add]
  congr 1
  omega

/-- Settles O36: the count is that of the enumeration, the primary opcode is one of the two conditions of the cover. -/
theorem coverCount : Obligations.CoverCount := by
  intro g e h
  have hcount := ncard_covers (.inl h)
  simp only [covers_normal e h.1, expansions_eq_two_pow h] at hcount
  refine ⟨hcount, fun idx hidx => ?_⟩
  obtain ⟨hpo, -⟩ := (coversNormal_iff g e idx).1 hidx
  exact (idxPO_toNat idx).trans hpo

/-- Settles O38: the one condition of a saturated cover is the primary opcode, and the count is that of the enumeration. -/
theorem saturatedCover : Obligations.SaturatedCover := by
  intro g e h
  refine ⟨fun idx => ?_, (ncard_covers (.inr h)).trans (expansions_saturated h.1)⟩
  rw [covers_saturated e h.1, ← idxPO_toNat, idxPO]

/-! ## The loop of R70 -/

/-- The two loop counters of R70 within their bounds are a place of the enumeration. -/
theorem digits_lt_expansions {g : Group} {e : Pattern} (h : normalOk g e) {i j : Nat}
    (hi : i < 2 ^ (e.magn + 11 - g.sh - g.count)) (hj : j < 2 ^ g.sh) : i * 2 ^ g.sh + j < expansions g e := by
  rw [expansions_normal h.1]
  exact digits_lt hi hj

/-- A place of the enumeration has its high digit within the bound of R70's outer loop. -/
theorem div_lt_of_lt_expansions {g : Group} {e : Pattern} (h : normalOk g e) {n : Nat} (hn : n < expansions g e) :
    n / 2 ^ g.sh < 2 ^ (e.magn + 11 - g.sh - g.count) := by
  rw [expansions_normal h.1] at hn
  exact Nat.div_lt_of_lt_mul (by rwa [Nat.mul_comm])

/-- Index number `i * 2 ^ sh + j` of a normal pattern is the one that R70 forms from `i` and `j`. -/
theorem expand_digits_eq_iff {g : Group} {e : Pattern} (h : normalOk g e) {i j : Nat}
    (hi : i < 2 ^ (e.magn + 11 - g.sh - g.count)) (hj : j < 2 ^ g.sh) (idx : DecodeIndex) :
    expand g e (i * 2 ^ g.sh + j) = idx ↔
      idx.toNat = (((((i <<< (g.count - e.magn)) ||| e.value) <<< g.sh) ||| j) <<< 6) ||| g.mainOp := by
  obtain ⟨hdiv, hmod⟩ := digits_div_mod (hi := i) hj
  rw [eq_comm, ← BitVec.toNat_inj, expand_normal_toNat h (expandF_lt h (digits_lt_expansions h hi hj)),
    ← Nat.shiftLeft_eq, Nat.shiftLeft_add_eq_or_of_lt (mainOp_lt_of_normalOk h)]
  simp only [expandF, valueWidth, hdiv, hmod]

/-- Settles O37: a place of the enumeration and its two loop counters are the same number, written in two ways. -/
theorem enumerationIsTheCover : Obligations.EnumerationIsTheCover := by
  intro g e h idx
  rw [coversNormal_iff_expand h]
  constructor
  · rintro ⟨n, hn, hidx⟩
    have hi := div_lt_of_lt_expansions h hn
    have hj : n % 2 ^ g.sh < 2 ^ g.sh := Nat.mod_lt n (Nat.two_pow_pos _)
    refine ⟨(n / 2 ^ g.sh, n % 2 ^ g.sh), ⟨hi, hj, (expand_digits_eq_iff h hi hj idx).1 ?_⟩, ?_⟩
    · rwa [Nat.div_add_mod']
    · rintro ⟨i, j⟩ ⟨hi', hj', heq⟩
      have hsame := ((expand_digits_eq_iff h hi' hj' idx).2 heq).trans hidx.symm
      have hplace := expand_injOn_of_normalOk h (digits_lt_expansions h hi' hj') hn hsame
      obtain ⟨hdiv, hmod⟩ := digits_div_mod (hi := i) hj'
      rw [hplace] at hdiv hmod
      exact Prod.ext hdiv.symm hmod.symm
  · rintro ⟨⟨i, j⟩, ⟨hi, hj, heq⟩, -⟩
    exact ⟨_, digits_lt_expansions h hi hj, (expand_digits_eq_iff h hi hj idx).2 heq⟩

/-! ## The other forms of a normal pattern's cover -/

/-- What the mask of a primary opcode and of a field of `v` bits at bit `k` leaves of a number. -/
theorem and_fieldMask (x v k : Nat) :
    x &&& (0x3F ||| ((2 ^ v - 1) <<< k)) = ((x >>> k) % 2 ^ v) <<< k ||| x % 2 ^ 6 := by
  have hfield : x &&& ((2 ^ v - 1) <<< k) = ((x >>> k) % 2 ^ v) <<< k := by
    rw [← Nat.and_two_pow_sub_one_eq_mod, Nat.shiftLeft_and_distrib]
    apply Nat.eq_of_testBit_eq
    intro i
    by_cases hi : k ≤ i <;> simp [hi]
  rw [Nat.and_or_distrib_left, hfield, Nat.or_comm]
  exact congrArg _ (Nat.and_two_pow_sub_one_eq_mod x 6)

/-- Two numbers made of low bits and a field above them are equal when their parts are. -/
theorem shiftLeft_or_inj {hi hi' lo lo' k : Nat} (hlo : lo < 2 ^ k) (hlo' : lo' < 2 ^ k) :
    hi <<< k ||| lo = hi' <<< k ||| lo' ↔ lo = lo' ∧ hi = hi' := by
  rw [← Nat.shiftLeft_add_eq_or_of_lt hlo, ← Nat.shiftLeft_add_eq_or_of_lt hlo', Nat.shiftLeft_eq, Nat.shiftLeft_eq]
  obtain ⟨hdiv, hmod⟩ := digits_div_mod (hi := hi) hlo
  obtain ⟨hdiv', hmod'⟩ := digits_div_mod (hi := hi') hlo'
  constructor
  · intro heq
    rw [heq] at hdiv hmod
    exact ⟨hmod.symm.trans hmod', hdiv.symm.trans hdiv'⟩
  · rintro ⟨rfl, rfl⟩
    rfl

/-- A field of `F` is the same field of the word, as `F` is the word's lowest 11 bits (30_encoding.md R48). -/
theorem wordF_field (w : InstrWord) {sh v : Nat} (h : v + sh ≤ 11) :
    ((wordF w).toNat >>> sh) % 2 ^ v = (w.extractLsb' sh v).toNat := by
  have hsplit : 2 ^ 11 = 2 ^ sh * 2 ^ (11 - sh) := by
    rw [← pow_add]
    congr 1
    omega
  rw [wordF_toNat, BitVec.extractLsb'_toNat, Nat.shiftRight_eq_div_pow, Nat.shiftRight_eq_div_pow, hsplit,
    Nat.mod_mul_right_div_self, Nat.mod_mod_of_dvd _ (pow_dvd_pow 2 (by omega))]

/-- Settles O35: the fields of the definition, taken out by a mask, and found again in the word. -/
theorem coverByMatchAndMask : Obligations.CoverByMatchAndMask := by
  intro g e h
  have hfields : ∀ idx : DecodeIndex, covers g e idx = true ↔
      (idxPO idx).toNat = g.mainOp ∧ ((idxF idx).toNat >>> g.sh) % 2 ^ (g.count - e.magn) = e.value := fun idx => by
    rw [covers_normal e h.1, coversNormal, Bool.and_eq_true, decide_eq_true_eq, decide_eq_true_eq, valueWidth]
  refine ⟨hfields, fun idx => ?mask, fun w => ?word⟩
  case mask =>
    have hF : idx.toNat >>> (6 + g.sh) = (idxF idx).toNat >>> g.sh := by
      rw [Nat.shiftRight_add, Nat.shiftRight_eq_div_pow _ 6, idxF_toNat]
    have hpow : 2 ^ 6 ≤ 2 ^ (6 + g.sh) := Nat.pow_le_pow_right (by decide) (Nat.le_add_right 6 g.sh)
    have hpo : idx.toNat % 2 ^ 6 < 2 ^ (6 + g.sh) := (Nat.mod_lt _ (by decide)).trans_le hpow
    rw [and_fieldMask, Nat.or_comm g.mainOp, shiftLeft_or_inj hpo ((mainOp_lt_of_normalOk h).trans_le hpow), hF, hfields,
      idxPO_toNat]
  case word =>
    obtain ⟨-, -, hcount, -⟩ := h
    rw [hfields, idxPO_indexOf, idxF_indexOf, wordF_field w (by omega), wordPO]

/-! ## The handler of each pair -/

/-- The choice of R72, by bit 6 of the index. -/
theorem pick_eq (e : Pattern) (idx : DecodeIndex) :
    pick e idx = if idx.getLsbD 6 then ⟨e.irc, e.jrc, e.nrc⟩ else ⟨e.ip, e.jp, e.np⟩ := by
  rw [pick, selBit_eq_getLsbD]

/-- Bit 6 of a word's index is the word's bit 0 (`idx[6] = w[0]`). -/
theorem getLsbD_six_indexOf (w : InstrWord) : (indexOf w).getLsbD 6 = w.getLsbD 0 := by
  rw [indexOf_eq_append, BitVec.getLsbD_append, if_neg (by decide), wordF, BitVec.getLsbD_extractLsb']
  rfl

/-- Where the field starts at bit 0 of `F` and is not all magnitude, its lowest bit is bit 6 of the index. -/
theorem getLsbD_six_of_covers {g : Group} {e : Pattern} {idx : DecodeIndex} (h : normalOk g e) (hsh : g.sh = 0)
    (hmagn : e.magn < g.count) (hc : covers g e idx = true) : idx.getLsbD 6 = decide (e.value % 2 = 1) := by
  rw [covers_normal e h.1, coversNormal_iff, hsh, pow_zero, Nat.div_one] at hc
  obtain ⟨-, hvalue⟩ := hc
  have hdvd : 2 ∣ 2 ^ (g.count - e.magn) := dvd_pow_self 2 (by omega)
  rw [← hvalue, Nat.mod_mod_of_dvd _ hdvd, BitVec.getLsbD, Nat.testBit_eq_decide_div_mod_eq]

/-- Settles O40: the choice is by bit 6 of the index; the word's bit 0 and the value's lowest bit are that bit. -/
theorem handlersChosenByBitZero : Obligations.HandlersChosenByBitZero := by
  refine fun e => ⟨pick_eq e, getLsbD_six_indexOf, fun g idx h hsh hmagn hc => ?_⟩
  simp only [pick_eq, getLsbD_six_of_covers h hsh hmagn hc, decide_eq_true_eq]

/-- Settles O41: check W6 asks that the pairs of a saturated pattern be equal, so the choice does not matter. -/
theorem saturatedPatternsGiveOneTriple : Obligations.SaturatedPatternsGiveOneTriple := by
  intro p g e idx hwf hpolicy hg he hsh
  have hW6 := checkW6_of_wf hwf
  simp only [checkW6, hpolicy, List.all_eq_true, Bool.or_eq_true, Bool.not_eq_true', saturated,
    decide_eq_false_iff_not] at hW6
  have hpairs := (hW6 g hg).resolve_left (not_not.2 hsh) e he
  simp only [pairsEqual, Bool.and_eq_true, decide_eq_true_eq] at hpairs
  obtain ⟨⟨hi, hj⟩, hn⟩ := hpairs
  rw [pick_eq, ← hi, ← hj, ← hn, ite_self]

/-! ## What does not fit is refused -/

/-- The field of a normal group of a well-formed configuration fits `F`, with or without patterns (check W2). -/
theorem field_fits {p : Params} (h : paramsWf p = true) {g : Group} (hg : g ∈ p.groups) (hsh : g.sh < 11) :
    g.count + g.sh ≤ 11 := by
  simp only [paramsWf, Bool.and_eq_true] at h
  obtain ⟨⟨⟨⟨⟨⟨⟨⟨-, w2⟩, -⟩, -⟩, -⟩, -⟩, -⟩, -⟩, -⟩ := h
  simp only [checkW2, List.all_eq_true, Bool.or_eq_true, decide_eq_true_eq, saturated] at w2
  exact (w2 g hg).resolve_left (by omega)

/-- Settles O42: in a well-formed configuration the fields and the patterns fit, so none of the bounds is passed. -/
theorem illFittingPatternsRefused : Obligations.IllFittingPatternsRefused := by
  refine fun p g hg => ⟨fun hsh hfield => ?field, fun e he => ⟨fun hsh hbad => ?normal, fun hsh hbad => ?saturated⟩⟩
  all_goals rw [Bool.eq_false_iff]; intro hwf
  case field =>
    have hfits := field_fits hwf hg hsh
    omega
  case normal =>
    obtain ⟨-, -, -, hmagn, hvalue⟩ | ⟨hsat, -⟩ := pattern_fits hwf (mem_order.2 ⟨hg, he⟩)
    · omega
    · omega
  case saturated =>
    obtain ⟨hnormal, -⟩ | ⟨-, hvalue, -⟩ := pattern_fits hwf (mem_order.2 ⟨hg, he⟩)
    · omega
    · omega

end Sys2Proof.Machine
end

section
/-!
TableSet as the patterns make it (43_table_set.md R81, R83; 42_pattern_expander.md R74, R75): the last covering pattern of
the build order decides an index, the order does not matter where no two patterns cover one, and one move of the build
writes one covered index.
-/

namespace Sys2Proof.Machine

/-! ## The last covering pattern -/

/-- The last covering pattern is the one that covers and that no covering pattern follows in the build order. -/
theorem lastCover_eq_some_iff {p : Params} {idx : DecodeIndex} {ge : Group × Pattern} :
    lastCover p idx = some ge ↔
      ∃ before after, order p = before ++ ge :: after ∧ covers ge.1 ge.2 idx = true ∧
        ∀ x ∈ after, covers x.1 x.2 idx = false := by
  rw [lastCover, covering, List.getLast?_eq_some_iff]
  constructor
  · rintro ⟨ys, hys⟩
    obtain ⟨l₁, l₂, horder, -, hlast⟩ := List.filter_eq_append_iff.1 hys
    obtain ⟨m₁, m₂, hl₂, -, hc, hnone⟩ := List.filter_eq_cons_iff.1 hlast
    exact ⟨l₁ ++ m₁, m₂, by rw [horder, hl₂, List.append_assoc], hc, by simpa using hnone⟩
  · rintro ⟨before, after, horder, hc, hnone⟩
    have hlast : ((ge :: after).filter fun x => covers x.1 x.2 idx) = [ge] :=
      List.filter_eq_cons_iff.2 ⟨[], after, rfl, by simp, hc, by simpa using hnone⟩
    exact ⟨_, by rw [horder, List.filter_append, hlast]⟩

/-- There is no last covering pattern where no pattern covers. -/
theorem lastCover_eq_none_iff {p : Params} {idx : DecodeIndex} :
    lastCover p idx = none ↔ ∀ ge ∈ order p, covers ge.1 ge.2 idx = false := by
  simp [lastCover, covering]

theorem built_of_lastCover {p : Params} {idx : DecodeIndex} {ge : Group × Pattern} (h : lastCover p idx = some ge) :
    built p idx = pick ge.2 idx := by
  rw [built_eq_elim, h, Option.elim]

theorem built_of_no_cover {p : Params} {idx : DecodeIndex} (h : lastCover p idx = none) : built p idx = sentinels := by
  rw [built_eq_elim, h, Option.elim]

/-- Under `refuse` at most one pattern of a well-formed configuration covers an index (check W8). -/
theorem length_covering_le_one {p : Params} (h : paramsWf p = true) (hp : p.overlap = .refuse) (idx : DecodeIndex) :
    (covering p idx).length ≤ 1 := by
  have hW8 := checkW8_of_wf h
  simp only [checkW8, hp, List.all_eq_true, List.mem_range, decide_eq_true_eq] at hW8
  have hle := hW8 idx.toNat idx.isLt
  rwa [BitVec.ofNat_toNat, BitVec.setWidth_eq] at hle

/-- Settles O43: once READY the tables are the built ones, and these are the last covering pattern's choice. -/
theorem builtByLastCoveringPattern : Obligations.BuiltByLastCoveringPattern := by
  refine ⟨fun s idx hs hready => ?_, fun p idx hwf hp => length_covering_le_one hwf hp idx⟩
  have hholds := holds_built_of_inv hs hready idx
  cases hlast : lastCover s.params idx with
  | none =>
    rw [built_of_no_cover hlast] at hholds
    exact .inr ⟨lastCover_eq_none_iff.1 hlast, hholds⟩
  | some ge =>
    obtain ⟨before, after, horder, hc, hnone⟩ := lastCover_eq_some_iff.1 hlast
    rw [built_of_lastCover hlast, pick_eq] at hholds
    exact .inl ⟨before, ge.1, ge.2, after, horder, hc, hnone, hholds⟩

/-! ## A word of a pattern, decoded -/

theorem exec_decodeJit_of_read {s : State} (hready : s.phase = .ready) {w : InstrWord} {j : Nat}
    (hread : s.jt.read (indexOf w) = some j) (b : OperandB) :
    exec (.decodeJit w b) s = .next (s.answered (BitVec.ofNat 64 j)) := by
  have hdata : s.jitData w = BitVec.ofNat 64 j := entryData_of_read (sel := .jt) hread
  exact congrArg Host.Outcome.next (respondWhenReady_eq_answered hready hdata)

/-- Settles O22: the word's index holds the pattern's choice, which is by the word's bit 0, and the commands read it. -/
theorem patternWordsDecodeToTheirHandlers : Obligations.PatternWordsDecodeToTheirHandlers := by
  intro s before after g e w b hs hready horder hsh hc hnone hw
  have hlast : lastCover s.params (indexOf w) = some (g, e) :=
    lastCover_eq_some_iff.2 ⟨before, after, horder, (covers_normal e hsh _).trans hc, hnone⟩
  have hpick : built s.params (indexOf w) =
      ⟨if w.getLsbD 0 then e.irc else e.ip, if w.getLsbD 0 then e.jrc else e.jp, if w.getLsbD 0 then e.nrc else e.np⟩ := by
    rw [built_of_lastCover hlast, pick_eq, getLsbD_six_indexOf]
    cases w.getLsbD 0 <;> rfl
  obtain ⟨hit, hjt, hnt⟩ := holds_built_of_inv hs hready (indexOf w)
  rw [hpick] at hit hjt hnt
  exact ⟨exec_decode_of_read hready hw hit b, exec_decodeJit_of_read hready hjt b, exec_decodeName_of_read hready hnt b⟩

/-! ## The order of the patterns -/

/-- What the built tables depend on in a pattern of the build order: its group's three numbers, and the pattern. -/
def patternKey (ge : Group × Pattern) : Nat × Nat × Nat × Pattern := (ge.1.mainOp, ge.1.count, ge.1.sh, ge.2)

/-- The cover of a pattern, from its key. -/
def coversKey (idx : DecodeIndex) (k : Nat × Nat × Nat × Pattern) : Bool :=
  covers ⟨k.1, k.2.1, k.2.2.1, []⟩ k.2.2.2 idx

/-- The cover of a pattern does not depend on the other patterns of its group. -/
theorem coversKey_patternKey (ge : Group × Pattern) (idx : DecodeIndex) :
    coversKey idx (patternKey ge) = covers ge.1 ge.2 idx := rfl

/-- The keys of the covering patterns are the covering keys of the build order. -/
theorem map_patternKey_covering (p : Params) (idx : DecodeIndex) :
    (covering p idx).map patternKey = ((order p).map patternKey).filter (coversKey idx) := by
  rw [List.filter_map, covering]
  rfl

/-- The built tables are made of the keys alone. -/
theorem built_eq_of_keys (p : Params) (idx : DecodeIndex) :
    built p idx = (((covering p idx).map patternKey).getLast?).elim sentinels fun k => pick k.2.2.2 idx := by
  rw [built_eq_elim, lastCover, List.getLast?_map, Option.elim_map]
  rfl

/-- A list of at most one element has no other order. -/
theorem perm_eq_of_length_le_one {α : Type} {l₁ l₂ : List α} (h : l₁.Perm l₂) (hlen : l₁.length ≤ 1) : l₁ = l₂ := by
  cases l₁ with
  | nil => exact h.nil_eq
  | cons a rest =>
    have hrest : rest = [] := by simpa using hlen
    subst hrest
    exact h.singleton_eq

/-- Settles O44: at most one key covers an index, so a permutation of the keys leaves the same one, or none. -/
theorem orderIrrelevantWithoutOverlap : Obligations.OrderIrrelevantWithoutOverlap := by
  intro p q hwf hp hperm idx
  have hlen := length_covering_le_one hwf hp idx
  have hcovering : ((covering p idx).map patternKey).Perm ((covering q idx).map patternKey) := by
    rw [map_patternKey_covering, map_patternKey_covering]
    exact hperm.filter (coversKey idx)
  rw [built_eq_of_keys, built_eq_of_keys, perm_eq_of_length_le_one hcovering (by simpa using hlen)]

/-! ## One move of the build in a pattern -/

theorem afterWrite_of_lt {g : Group} {e : Pattern} {k : Nat} (h : k + 1 < expansions g e) (n : Nat) :
    afterWrite g e n k = .fill n (k + 1) := if_pos h

theorem afterWrite_of_last {g : Group} {e : Pattern} {k : Nat} (h : k + 1 = expansions g e) (n : Nat) :
    afterWrite g e n k = .fill (n + 1) 0 := if_neg h.not_lt

/-- A write of the build leaves every other entry of the three tables. -/
theorem writeEntry_reads_other (s : State) {i idx : DecodeIndex} (h : idx ≠ i) (t : Triple) :
    (s.writeEntry i t).it.read idx = s.it.read idx ∧ (s.writeEntry i t).jt.read idx = s.jt.read idx ∧
      (s.writeEntry i t).nt.read idx = s.nt.read idx :=
  ⟨read_write_other _ _ h, read_write_other _ _ h, read_write_other _ _ h⟩

/-- Settles O48: the move is one write, at a place of the enumeration, so at a covered index, and then the next place. -/
theorem fillWritesOneCoveredIndex : Obligations.FillWritesOneCoveredIndex := by
  intro s n k g e hphase hpos hn hfits hk idx
  have hmove := buildMove_fill hphase hpos hn
  obtain ⟨hparams, hports, hmark, -, -⟩ := buildMove_frame s
  refine ⟨s.buildMove, rfl, (covers_iff_expand hfits idx).2 ⟨k, hk, rfl⟩, ?phase, hports, hparams, hmark, ?same, ?other,
    congrArg State.pos hmove, fun h => ?next, fun h => ?last⟩ <;> rw [hmove]
  case phase => exact hphase
  case same => exact pick_eq e idx ▸ holds_writeEntry_same s idx (pick e idx)
  case other => exact fun idx' hne => writeEntry_reads_other s hne (pick e idx)
  case next => exact afterWrite_of_lt h n
  case last => exact afterWrite_of_last h n

end Sys2Proof.Machine
end

section
/-!
The identifiers and the names of the built tables (43_table_set.md R78 W7 and W9, R85): a triple that the build puts into
the tables is the sentinels or a pattern's choice, and the checks speak of both.
-/

namespace Sys2Proof.Machine

/-! ## The identifiers -/

/-- The three identifiers are ones that a pattern may hold (43_table_set.md R78 W7). -/
def tripleIdsOk (p : Params) (t : Triple) : Bool := interpIdOk p t.interp && jitIdOk p t.jit && nameIdOk p t.name

theorem tripleIdsOk_iff {p : Params} {t : Triple} :
    tripleIdsOk p t = true ↔
      (t.interp < 2 ^ p.hidW ∧ t.interp ≠ idNop) ∧ t.jit < 2 ^ p.jidW ∧
        t.name < 2 ^ p.nidW ∧ ∃ str, nameString p t.name = some str := by
  simp only [tripleIdsOk, interpIdOk, jitIdOk, nameIdOk, Bool.and_eq_true, decide_eq_true_eq, Option.isSome_iff_exists,
    and_assoc]

/-- Both choices of a pattern pass W7 where the pattern does. -/
theorem tripleIdsOk_pick {p : Params} {e : Pattern} (h : patternIdsOk p e = true) (idx : DecodeIndex) :
    tripleIdsOk p (pick e idx) = true := by
  simp only [patternIdsOk, Bool.and_eq_true] at h
  obtain ⟨⟨⟨⟨⟨hip, hirc⟩, hjp⟩, hjrc⟩, hnp⟩, hnrc⟩ := h
  unfold pick tripleIdsOk
  split
  · simp only [hirc, hjrc, hnrc, Bool.and_self]
  · simp only [hip, hjp, hnp, Bool.and_self]

/-- `NAME_INVALID` has the name `invalid` (check W9). -/
theorem nameString_nameInvalid {p : Params} (h : paramsWf p = true) :
    nameString p idNameInvalid = some "invalid" :=
  of_decide_eq_true (Bool.and_eq_true_iff.1 (checkW9_of_wf h)).1

/-- No name is the empty string (check W9). -/
theorem nameString_ne_empty {p : Params} (h : paramsWf p = true) {n : Nat} {str : String}
    (hn : nameString p n = some str) : str ≠ "" := by
  obtain ⟨l₁, l₂, heq, -⟩ := List.lookup_eq_some_iff.1 hn
  have hmem : (n, str) ∈ p.nameStr := by simp [heq]
  exact of_decide_eq_true (List.all_eq_true.1 (Bool.and_eq_true_iff.1 (checkW9_of_wf h)).2 _ hmem)

/-- The sentinels pass W7 as well: they are 0, and W9 names `NAME_INVALID`. -/
theorem tripleIdsOk_sentinels {p : Params} (h : paramsWf p = true) : tripleIdsOk p sentinels = true :=
  tripleIdsOk_iff.2 ⟨⟨Nat.two_pow_pos _, by decide⟩, Nat.two_pow_pos _, Nat.two_pow_pos _, _, nameString_nameInvalid h⟩

theorem tripleIdsOk_built {p : Params} (h : paramsWf p = true) (idx : DecodeIndex) :
    tripleIdsOk p (built p idx) = true := by
  cases hlast : lastCover p idx with
  | none => exact built_of_no_cover hlast ▸ tripleIdsOk_sentinels h
  | some ge => exact built_of_lastCover hlast ▸ tripleIdsOk_pick (ids_of_wf h (lastCover_mem hlast).1) idx

/-- Settles O45: the built triple passes W7. -/
theorem builtIdsFitTheirTables : Obligations.BuiltIdsFitTheirTables := by
  intro p idx hwf
  obtain ⟨⟨hinterp, hnop⟩, hjit, hname, -⟩ := tripleIdsOk_iff.1 (tripleIdsOk_built hwf idx)
  exact ⟨hinterp, hnop, hjit, hname⟩

/-! ## The names -/

/-- A built name id is `NAME_INVALID` where no pattern covers, or the last covering one chooses that id. -/
theorem built_name_eq_zero_iff (p : Params) (idx : DecodeIndex) :
    (built p idx).name = 0 ↔
      lastCover p idx = none ∨ ∃ g e, lastCover p idx = some (g, e) ∧ (pick e idx).name = 0 := by
  cases hlast : lastCover p idx with
  | none => simp [built_of_no_cover hlast, sentinels, idNameInvalid]
  | some ge => simp [built_of_lastCover hlast, Prod.ext_iff]

/-- In an elaborated configuration `NAME_INVALID`, and no other id, has the name `invalid`. -/
theorem nameString_eq_invalid_iff {p : Params} (h : elaborates p = true) {n : Nat} :
    nameString p n = some "invalid" ↔ n = 0 := by
  obtain ⟨hwf, hapart⟩ := Bool.and_eq_true_iff.1 h
  exact ⟨eq_nameInvalid hapart, fun hn => hn ▸ nameString_nameInvalid hwf⟩

/-- Where R85 says that a built name is `invalid`, for every elaborated configuration. -/
theorem built_nameString_eq_invalid_iff {p : Params} (h : elaborates p = true) (idx : DecodeIndex) :
    nameString p (built p idx).name = some "invalid" ↔
      lastCover p idx = none ∨ ∃ g e, lastCover p idx = some (g, e) ∧ (pick e idx).name = 0 :=
  (nameString_eq_invalid_iff h).trans (built_name_eq_zero_iff p idx)

/-- Settles O46: W7 and W9 name every built id, and in an elaborated configuration, the block's own included, only
`NAME_INVALID` is named `invalid`. -/
theorem everyIndexIsNamed : Obligations.EveryIndexIsNamed := by
  refine ⟨fun p idx hwf => ?_, fun p idx => (built_nameString_eq_invalid_iff · idx),
    built_nameString_eq_invalid_iff bootParams_elaborates⟩
  have hinvalid : (built p idx).name = 0 → nameString p (built p idx).name = some "invalid" :=
    fun hn => hn ▸ nameString_nameInvalid hwf
  obtain ⟨-, -, -, str, hstr⟩ := tripleIdsOk_iff.1 (tripleIdsOk_built hwf idx)
  exact ⟨⟨str, hstr, nameString_ne_empty hwf hstr⟩, hinvalid,
    fun hnone => hinvalid ((built_name_eq_zero_iff p idx).2 (.inl (lastCover_eq_none_iff.2 hnone)))⟩

end Sys2Proof.Machine
end

section
/-!
The build sequencer from reset to READY and after it (43_table_set.md R80 to R82, R86; 70_reset_and_hazards.md R111): one
move of the sentinel fill, the number of moves that are left, the run of a block without requests, and the frozen tables.
-/

namespace Sys2Proof.Machine

/-! ## One move of the sentinel fill -/

theorem afterSentinel_of_lt {i : Nat} (h : i + 1 < tableSize) : afterSentinel i = .sentinelFill (i + 1) := if_pos h

theorem afterSentinel_of_last {i : Nat} (h : i + 1 = tableSize) : afterSentinel i = .fill 0 0 := if_neg h.not_lt

/-- Settles O47: the move is one write, at the index of the fill's position. -/
theorem sentinelFillWritesOneIndex : Obligations.SentinelFillWritesOneIndex := by
  intro s i hphase hpos hi
  have hmove := buildMove_sentinel hphase hpos
  obtain ⟨hparams, hports, hmark, -, -⟩ := buildMove_frame s
  refine ⟨s.buildMove, rfl, ?phase, hports, hparams, hmark, ?same, fun idx hidx => ?other, fun h => ?next,
    fun h => ?last⟩ <;> rw [hmove]
  case phase => exact hphase
  case same => exact holds_writeEntry_same s (BitVec.ofNat 17 i) sentinels
  case other =>
    have hne : idx ≠ BitVec.ofNat 17 i := fun heq => hidx (by rw [heq, BitVec.toNat_ofNat, Nat.mod_eq_of_lt hi])
    exact writeEntry_reads_other s hne sentinels
  case next => exact afterSentinel_of_lt h
  case last => exact afterSentinel_of_last h

/-! ## The moves that are left -/

/-- How many writes the patterns from place `n` of the build order on take (70_reset_and_hazards.md R111). -/
def writesFrom (p : Params) (n : Nat) : Nat := (((order p).drop n).map fun ge => expansions ge.1 ge.2).sum

theorem writesFrom_zero (p : Params) : writesFrom p 0 = fillWrites p := rfl

theorem writesFrom_some {p : Params} {n : Nat} {ge : Group × Pattern} (h : (order p)[n]? = some ge) :
    writesFrom p n = expansions ge.1 ge.2 + writesFrom p (n + 1) := by
  obtain ⟨hn, rfl⟩ := List.getElem?_eq_some_iff.1 h
  rw [writesFrom, List.drop_eq_getElem_cons hn, List.map_cons, List.sum_cons, writesFrom]

theorem writesFrom_none {p : Params} {n : Nat} (h : (order p)[n]? = none) : writesFrom p n = 0 := by
  rw [writesFrom, List.drop_of_length_le (List.getElem?_eq_none_iff.1 h), List.map_nil, List.sum_nil]

theorem buildMovesLeft_ready {s : State} (h : s.phase = .ready) : s.buildMovesLeft = 0 := by
  simp only [State.buildMovesLeft, h]

theorem buildMovesLeft_sentinel {s : State} {i : Nat} (h : s.phase = .building) (hp : s.pos = .sentinelFill i) :
    s.buildMovesLeft = tableSize - i + fillWrites s.params + 1 := by
  simp only [State.buildMovesLeft, h, hp]

theorem buildMovesLeft_fill {s : State} {n k : Nat} (h : s.phase = .building) (hp : s.pos = .fill n k) :
    s.buildMovesLeft = writesFrom s.params n - k + 1 := by
  simp only [State.buildMovesLeft, h, hp, writesFrom]

/-- No move is left once READY, and only then: the publication is a move of its own (43_table_set.md R82). -/
theorem buildMovesLeft_eq_zero_iff (s : State) : s.buildMovesLeft = 0 ↔ s.phase = .ready := by
  cases h : s.phase with
  | ready => simp [buildMovesLeft_ready h]
  | building =>
    cases hp : s.pos with
    | sentinelFill i => simp [buildMovesLeft_sentinel h hp]
    | fill n k => simp [buildMovesLeft_fill h hp]

theorem building_iff_buildMovesLeft_pos (s : State) : s.phase = .building ↔ 0 < s.buildMovesLeft := by
  rw [Nat.pos_iff_ne_zero, ne_eq, buildMovesLeft_eq_zero_iff]
  cases s.phase <;> simp

/-- A sentinel write is one of the moves that were left (43_table_set.md R80). -/
theorem buildMovesLeft_after_sentinel {s : State} {i : Nat} (hphase : s.phase = .building)
    (hpos : s.pos = .sentinelFill i) (h : s.tablesAsBuilt) : s.buildMove.buildMovesLeft + 1 = s.buildMovesLeft := by
  obtain ⟨hi, -⟩ := (tablesAsBuilt_sentinel hphase hpos).1 h
  have hmove := buildMove_sentinel hphase hpos
  have hphase' : s.buildMove.phase = .building := hmove ▸ hphase
  have hpos' : s.buildMove.pos = afterSentinel i := hmove ▸ rfl
  rw [buildMovesLeft_sentinel hphase hpos]
  obtain hlt | hlast : i + 1 < tableSize ∨ i + 1 = tableSize := by omega
  · rw [afterSentinel_of_lt hlt] at hpos'
    rw [buildMovesLeft_sentinel hphase' hpos', (buildMove_frame s).1]
    omega
  · rw [afterSentinel_of_last hlast] at hpos'
    rw [buildMovesLeft_fill hphase' hpos', (buildMove_frame s).1, writesFrom_zero]
    omega

/-- A pattern's write is one of the moves that were left (42_pattern_expander.md R74). -/
theorem buildMovesLeft_after_fill {s : State} {n k : Nat} {ge : Group × Pattern} (hphase : s.phase = .building)
    (hpos : s.pos = .fill n k) (hn : (order s.params)[n]? = some ge) (h : s.tablesAsBuilt) :
    s.buildMove.buildMovesLeft + 1 = s.buildMovesLeft := by
  obtain ⟨hk, -⟩ := (tablesAsBuilt_fill hphase hpos hn).1 h
  have hmove := buildMove_fill hphase hpos hn
  have hphase' : s.buildMove.phase = .building := hmove ▸ hphase
  have hpos' : s.buildMove.pos = afterWrite ge.1 ge.2 n k := hmove ▸ rfl
  have hsum := writesFrom_some hn
  rw [buildMovesLeft_fill hphase hpos]
  obtain hlt | hlast : k + 1 < expansions ge.1 ge.2 ∨ k + 1 = expansions ge.1 ge.2 := by omega
  · rw [afterWrite_of_lt hlt] at hpos'
    rw [buildMovesLeft_fill hphase' hpos', (buildMove_frame s).1]
    omega
  · rw [afterWrite_of_last hlast] at hpos'
    rw [buildMovesLeft_fill hphase' hpos', (buildMove_frame s).1]
    omega

/-- The publication is the last of the moves that were left (43_table_set.md R82). -/
theorem buildMovesLeft_after_publish {s : State} {n k : Nat} (hphase : s.phase = .building) (hpos : s.pos = .fill n k)
    (hn : (order s.params)[n]? = none) : s.buildMove.buildMovesLeft + 1 = s.buildMovesLeft := by
  rw [buildMovesLeft_fill hphase hpos, writesFrom_none hn, buildMove_publish hphase hpos hn,
    buildMovesLeft_ready rfl, Nat.zero_sub]

/-- Every move of the build while BUILDING brings READY nearer by one move. -/
theorem buildMovesLeft_buildMove {s : State} (hphase : s.phase = .building) (h : s.tablesAsBuilt) :
    s.buildMove.buildMovesLeft + 1 = s.buildMovesLeft := by
  cases hpos : s.pos with
  | sentinelFill i => exact buildMovesLeft_after_sentinel hphase hpos h
  | fill n k =>
    cases hn : (order s.params)[n]? with
    | none => exact buildMovesLeft_after_publish hphase hpos hn
    | some ge => exact buildMovesLeft_after_fill hphase hpos hn h

/-! ## A run without requests -/

/-- With an empty agenda and no request that can be answered, a BUILDING block makes a move of the build. -/
theorem step_eq_buildMove {s : State} (hagenda : s.agenda = []) (hphase : s.phase = .building)
    (hports : ∀ q ∈ s.ports, s.answerable q = false) : step s = .next s.buildMove := by
  have hnext : s.nextPort = none := List.findIdx?_eq_none_iff.2 hports
  exact step_of_default hagenda (m := .build) (by simp only [State.defaultMove, hnext, hphase])

/-- Nothing comes from outside, and no port carries a request. -/
def State.unrequested (s : State) : Prop := s.agenda = [] ∧ ∀ q ∈ s.ports, q.pending = none

theorem unrequested_resetWith (p : Params) (n : Nat) : (State.resetWith p n).unrequested :=
  ⟨rfl, fun _ hq => congrArg Port.pending (List.eq_of_mem_replicate hq)⟩

theorem unrequested_buildMove {s : State} (h : s.unrequested) : s.buildMove.unrequested := by
  obtain ⟨-, hports, -, -, hagenda⟩ := buildMove_frame s
  unfold State.unrequested
  rwa [hports, hagenda]

theorem step_of_unrequested {s : State} (h : s.unrequested) (hphase : s.phase = .building) :
    step s = .next s.buildMove := by
  obtain ⟨hagenda, hpending⟩ := h
  exact step_eq_buildMove hagenda hphase fun q hq => by simp only [State.answerable, hpending q hq]

/-- Without requests, each step up to READY is a move of the build: so many steps, so many moves fewer that are left. -/
theorem run_of_unrequested {k : Nat} {s : State} (hs : s.Inv) (hfree : s.unrequested) (hk : k ≤ s.buildMovesLeft) :
    ∃ t, Sys2Proof.core.run k s = .next t ∧ t.Inv ∧ t.params = s.params ∧ t.buildMovesLeft + k = s.buildMovesLeft := by
  induction k generalizing s with
  | zero => exact ⟨s, rfl, hs, rfl, rfl⟩
  | succ k ih =>
    have hphase := (building_iff_buildMovesLeft_pos s).2 (Nat.zero_lt_of_lt hk)
    have hleft := buildMovesLeft_buildMove hphase hs.tables
    obtain ⟨t, hrun, ht, hparams, hcount⟩ := ih (buildMove_inv hs) (unrequested_buildMove hfree) (by omega)
    exact ⟨t, (run_succ (step_of_unrequested hfree hphase)).trans hrun, ht, hparams.trans (buildMove_frame s).1,
      by omega⟩

theorem buildMovesLeft_resetWith (p : Params) (n : Nat) : (State.resetWith p n).buildMovesLeft = buildMoves p :=
  buildMovesLeft_sentinel (s := .resetWith p n) (i := 0) rfl rfl

/-- After `k` moves of a run from reset as many moves are left as the whole build has beyond `k`. -/
theorem run_resetWith {p : Params} (hwf : paramsWf p = true) (nPorts : Nat) {k : Nat} (hk : k ≤ buildMoves p) :
    ∃ t, Sys2Proof.core.run k (State.resetWith p nPorts) = .next t ∧ t.Inv ∧ t.params = p ∧
      t.buildMovesLeft + k = buildMoves p := by
  have hleft := buildMovesLeft_resetWith p nPorts
  rw [← hleft] at hk ⊢
  exact run_of_unrequested (resetWith_inv hwf nPorts) (unrequested_resetWith p nPorts) hk

/-- Settles O54: after reset `buildMoves p` moves are left, each step makes one, and none is left exactly when READY. -/
theorem buildReachesReady : Obligations.BuildReachesReady := by
  refine fun p nPorts hwf => ⟨fun k hk => ?building, ?ready⟩
  case building =>
    obtain ⟨t, hrun, -, -, hcount⟩ := run_resetWith hwf nPorts hk.le
    exact ⟨t, hrun, (building_iff_buildMovesLeft_pos t).2 (by omega)⟩
  case ready =>
    obtain ⟨t, hrun, hinv, hparams, hcount⟩ := run_resetWith hwf nPorts le_rfl
    have hready := (buildMovesLeft_eq_zero_iff t).1 (by omega)
    exact ⟨t, hrun, hready, hparams, hparams ▸ holds_built_of_inv hinv hready⟩

/-! ## The published tables -/

/-- READY and the three tables are as they were. -/
def sameReadyTables (s t : State) : Prop := t.phase = .ready ∧ t.it = s.it ∧ t.jt = s.jt ∧ t.nt = s.nt

theorem sameReadyTables_refl {s : State} (hready : s.phase = .ready) : sameReadyTables s s := ⟨hready, rfl, rfl, rfl⟩

/-- Once READY no move but a reset reaches the phase or a table: the build does nothing more (43_table_set.md R86). -/
theorem perform_sameReadyTables {s t : State} {m : Move} (hready : s.phase = .ready) (hm : m ≠ .reset)
    (h : s.perform m = .next t) : sameReadyTables s t := by
  obtain ⟨ports, mark, active, rfl, -⟩ | ⟨-, rfl⟩ | ⟨hreset, -⟩ := perform_frame h
  · exact ⟨hready, rfl, rfl, rfl⟩
  · rw [buildMove_ready hready]
    exact sameReadyTables_refl hready
  · exact absurd hreset hm

/-- Settles O50: a step's move is the agenda's first or the default move, which is never a reset. -/
theorem publishedTablesFrozen : Obligations.PublishedTablesFrozen := by
  intro s t hready hagenda h
  obtain ⟨m, rest, ha, hm⟩ | ⟨m, -, hdefault, hm⟩ | rfl := step_cases h
  · exact perform_sameReadyTables (s := { s with agenda := rest }) hready
      (fun hreset => hagenda rest (hreset ▸ ha)) hm
  · obtain ⟨n, -, rfl⟩ | ⟨-, -, rfl⟩ := defaultMove_cases hdefault
    · exact perform_sameReadyTables hready Move.noConfusion hm
    · exact perform_sameReadyTables hready Move.noConfusion hm
  · exact sameReadyTables_refl hready

end Sys2Proof.Machine
end

section
/-!
The dispatcher's commands (44_dispatcher.md R87 to R91): what reads a table is held while BUILDING, the range checks of
TABLE_READ come before the hold, and once READY an answer is the entry that is read, which is the built one in a block
that meets its invariant.
-/

namespace Sys2Proof.Machine

/-! ## The hold -/

/-- While BUILDING `exec` holds whatever `heldWhileBuilding` says (44_dispatcher.md R87). -/
theorem exec_held {i : Instr} {s : State} (hbuilding : s.phase = .building) (hi : heldWhileBuilding i = true) :
    exec i s = .next s := by
  have hcommand (v : Data) : Host.Outcome.next (s.respondWhenReady v) = (.next s : Host.Outcome State Fault Refusal) :=
    congrArg _ (respondWhenReady_building hbuilding v)
  have hword (w : InstrWord) : Host.Outcome.next (s.answerWord w) = (.next s : Host.Outcome State Fault Refusal) :=
    congrArg _ (answerWord_building hbuilding w)
  cases i with
  | decode w b => exact hcommand _
  | decodeJit w b => exact hcommand _
  | decodeName w b => exact hcommand _
  | isBranch a b => exact absurd hi Bool.false_ne_true
  | index w b => exact absurd hi Bool.false_ne_true
  | rotmask a b => exact absurd hi Bool.false_ne_true
  | tableRead a b =>
    obtain ⟨ha, sel, hb⟩ := inRange_tableRead_iff.1 hi
    exact (exec_tableRead_of_inRange ha hb s).trans (hcommand _)
  | reserved a b => exact absurd hi Bool.false_ne_true
  | nop => exact hword _
  | ori rest => exact hword _
  | add rest => exact hword _
  | addRc rest => exact hword _
  | branch rest => exact hword _
  | bc rest => exact hword _
  | bclr rest lk => exact hword _
  | bcctr rest lk => exact hword _
  | rfid rest lk => exact hword _

/-- Settles O27: each of the nine rows is held. -/
theorem bareWordsHeldWhileBuilding : Obligations.BareWordsHeldWhileBuilding := fun _ _ _ _ hbuilding =>
  ⟨exec_held hbuilding rfl, exec_held hbuilding rfl, exec_held hbuilding rfl, exec_held hbuilding rfl,
    exec_held hbuilding rfl, exec_held hbuilding rfl, exec_held hbuilding rfl, exec_held hbuilding rfl,
    exec_held hbuilding rfl⟩

/-! ## DECODE, DECODE_JIT and DECODE_NAME -/

/-- DECODE's fast path (44_dispatcher.md R88). -/
theorem exec_decode_nopWord {s : State} (hready : s.phase = .ready) (b : OperandB) :
    exec (.decode nopWord b) s = .next (s.answered 2#64) :=
  congrArg Host.Outcome.next (respondWhenReady_eq_answered hready (decodeData_nop s))

/-- Once READY an index that no pattern covers holds the sentinels. -/
theorem holds_sentinels_of_no_cover {s : State} (hs : s.Inv) (hready : s.phase = .ready) {idx : DecodeIndex}
    (hnone : ∀ ge ∈ order s.params, covers ge.1 ge.2 idx = false) : s.holds idx sentinels :=
  built_of_no_cover (lastCover_eq_none_iff.2 hnone) ▸ holds_built_of_inv hs hready idx

/-- Settles O15: the phase and the literal decide which case it is; `NOP` is no id of the built tables (W7). -/
theorem decodeCommand : Obligations.DecodeCommand := by
  intro w b s
  refine ⟨decode_requestNumber 0#3 w b, fun hbuilding => exec_held hbuilding rfl, fun hready hw => ?fast,
    fun hready hw h hread => exec_decode_of_read hready hw hread b, fun hs hready hw hnone => ?uncovered,
    fun hs hready idx h hread => ?noNop⟩
  case fast => exact hw ▸ exec_decode_nopWord hready b
  case uncovered =>
    obtain ⟨hit, -⟩ := holds_sentinels_of_no_cover hs hready hnone
    exact exec_decode_of_read hready hw hit b
  case noNop =>
    obtain ⟨hit, -⟩ := holds_built_of_inv hs hready idx
    obtain ⟨⟨-, hnop⟩, -⟩ := tripleIdsOk_iff.1 (tripleIdsOk_built hs.params idx)
    exact Option.some.inj (hit.symm.trans hread) ▸ hnop

/-- Settles O16: once READY the answer is the entry of `JT`, which is the sentinel where no pattern covers. -/
theorem decodeJitCommand : Obligations.DecodeJitCommand := by
  intro w b s
  refine ⟨decode_requestNumber 1#3 w b, fun hbuilding => exec_held hbuilding rfl,
    fun hready j hread => exec_decodeJit_of_read hready hread b, fun hs hready hnone => ?uncovered⟩
  case uncovered =>
    obtain ⟨-, hjt, -⟩ := holds_sentinels_of_no_cover hs hready hnone
    exact exec_decodeJit_of_read hready hjt b

/-- Settles O17: once READY the answer is the entry of `NT`, which W7 and W9 give a name that is not empty. -/
theorem decodeNameCommand : Obligations.DecodeNameCommand := by
  intro w b s
  refine ⟨decode_requestNumber 2#3 w b, fun hbuilding => exec_held hbuilding rfl,
    fun hready n hread => ⟨exec_decodeName_of_read hready hread b, fun hs => ?named⟩,
    fun hs hready hnone => ?uncovered⟩
  case named =>
    obtain ⟨-, -, hnt⟩ := holds_built_of_inv hs hready (indexOf w)
    obtain ⟨-, -, -, str, hstr⟩ := tripleIdsOk_iff.1 (tripleIdsOk_built hs.params (indexOf w))
    have hn : (built s.params (indexOf w)).name = n := Option.some.inj (hnt.symm.trans hread)
    exact ⟨str, hn ▸ hstr, nameString_ne_empty hs.params hstr⟩
  case uncovered =>
    obtain ⟨-, -, hnt⟩ := holds_sentinels_of_no_cover hs hready hnone
    exact ⟨exec_decodeName_of_read hready hnt b, nameString_nameInvalid hs.params⟩

/-! ## TABLE_READ -/

/-- The range checks come before the hold: out of range TABLE_READ is refused in any phase (60_exceptions.md R100). -/
theorem exec_tableRead_of_not_inRange {a : OperandA} {b : OperandB} (h : (Instr.tableRead a b).inRange = false)
    (s : State) : exec (.tableRead a b) s = .next s.refuse := by
  rw [Instr.inRange] at h
  cases ha : indexInRange a with
  | false => simp [exec, execTableRead, ha]
  | true =>
    have hb : selectOperand b = none := by simpa [ha] using h
    simp [exec, execTableRead, ha, hb]

/-- A table is selected by its number in `b[1:0]`, where the other bits of `b` are 0 (30_encoding.md R44, R46 (c)). -/
theorem selectOperand_eq_some_iff {b : OperandB} {sel : TableSel} :
    selectOperand b = some sel ↔ b >>> 2 = 0#6 ∧ b.extractLsb' 0 2 = BitVec.ofNat 2 (tableCode sel) := by
  revert b
  cases sel <;> decide

/-- Every 2-bit code but 3 is the number of a table. -/
theorem exists_tableCode_iff {code : BitVec 2} : (∃ sel, code = BitVec.ofNat 2 (tableCode sel)) ↔ code ≠ 3#2 := by
  constructor
  · rintro ⟨sel, rfl⟩
    cases sel <;> decide
  · intro hcode
    have hlow : code = 0#2 ∨ code = 1#2 ∨ code = 2#2 := by
      revert code
      decide
    obtain h | h | h := hlow
    · exact ⟨.it, h⟩
    · exact ⟨.jt, h⟩
    · exact ⟨.nt, h⟩

/-- The range checks of TABLE_READ in the bits of its operands (30_encoding.md R46 (b), (c)). -/
theorem inRange_tableRead_iff_bits {a : OperandA} {b : OperandB} :
    (Instr.tableRead a b).inRange = true ↔ a >>> 17 = 0#32 ∧ b >>> 2 = 0#6 ∧ b.extractLsb' 0 2 ≠ 3#2 := by
  simp only [inRange_tableRead_iff, indexInRange_iff, selectOperand_eq_some_iff, exists_and_left, exists_tableCode_iff]

theorem exec_tableRead_of_read {s : State} (hready : s.phase = .ready) {a : OperandA} {b : OperandB} {sel : TableSel}
    (ha : indexInRange a = true) (hb : selectOperand b = some sel) {h : Nat}
    (hread : (s.table sel).read (indexOperand a) = some h) :
    exec (.tableRead a b) s = .next (s.answered (BitVec.ofNat 64 h)) := by
  rw [exec_tableRead_of_inRange ha hb, respondWhenReady_eq_answered hready (entryData_of_read hread)]

/-- Settles O18: out of range the refusal, in range the hold or, by the number in `b[1:0]`, the entry of a table. -/
theorem tableReadCommand : Obligations.TableReadCommand := by
  intro a b s idx inside
  have hread (sel : TableSel) (hin : inside) (hready : s.phase = .ready)
      (hsel : b.extractLsb' 0 2 = BitVec.ofNat 2 (tableCode sel)) (h : Nat) (hh : (s.table sel).read idx = some h) :
      exec (.tableRead a b) s = .next (s.answered (BitVec.ofNat 64 h)) := by
    obtain ⟨ha, hb, -⟩ := hin
    exact exec_tableRead_of_read hready ((indexInRange_iff a).2 ha) (selectOperand_eq_some_iff.2 ⟨hb, hsel⟩) hh
  exact ⟨decode_requestNumber 6#3 a b,
    fun hout => refuses_of_exec
      (exec_tableRead_of_not_inRange (Bool.eq_false_iff.2 (mt inRange_tableRead_iff_bits.1 hout)) s),
    fun hin hbuilding => exec_held hbuilding (inRange_tableRead_iff_bits.2 hin),
    hread .it, hread .jt, hread .nt⟩

/-! ## The gating by the phase -/

/-- Settles O20: while BUILDING the hold, once READY the entries that the invariant gives, and no phase in the three
commands that read no table. -/
theorem phaseGating : Obligations.PhaseGating := by
  intro s a b sel
  refine ⟨fun hbuilding => ?building, fun hready hs => ?ready, ⟨_, rfl⟩,
    fun hmb => ⟨_, exec_rotmask_of_inRange hmb b s⟩, fun hidx => ⟨_, exec_isBranch_of_inRange hidx b s⟩⟩
  case building =>
    exact ⟨exec_held hbuilding rfl, exec_held hbuilding rfl, exec_held hbuilding rfl,
      fun ha hb => exec_held hbuilding (inRange_tableRead_iff.2 ⟨ha, sel, hb⟩)⟩
  case ready =>
    obtain ⟨hit, hjt, hnt⟩ := holds_built_of_inv hs hready (indexOf a)
    refine ⟨?decode, exec_decodeJit_of_read hready hjt b, exec_decodeName_of_read hready hnt b,
      fun ha hb => ?tableRead⟩
    case decode =>
      split
      next hnop => exact hnop ▸ exec_decode_nopWord hready b
      next hne => exact exec_decode_of_read hready hne hit b
    case tableRead =>
      obtain ⟨hit, hjt, hnt⟩ := holds_built_of_inv hs hready (indexOperand a)
      cases sel with
      | it => exact exec_tableRead_of_read hready ha hb hit
      | jt => exact exec_tableRead_of_read hready ha hb hjt
      | nt => exact exec_tableRead_of_read hready ha hb hnt

end Sys2Proof.Machine
end

section
/-!
The three outcomes of a request (60_exceptions.md R96 to R98, R100): the reserved code and the range checks decide the
refusal, then the phase decides the hold, and what is left is answered. So every step completes, and none clears the
refusal mark.
-/

namespace Sys2Proof.Machine

/-! ## The refusal -/

/-- The checks of 30_encoding.md R46 and R47 come first: what fails one is refused in any phase
(60_exceptions.md R100). -/
theorem exec_of_not_inRange {i : Instr} (h : i.inRange = false) (s : State) : exec i s = .next s.refuse := by
  cases i with
  | isBranch a b => exact exec_isBranch_of_not_inRange h b s
  | rotmask a b => exact exec_rotmask_of_not_inRange h b s
  | tableRead a b => exact exec_tableRead_of_not_inRange h s
  | reserved a b => rfl
  | _ => exact absurd h.symm Bool.false_ne_true

/-- Settles O29: the refusal is `State.turnedAway`. -/
theorem refusedRequestLeavesItsPort : Obligations.RefusedRequestLeavesItsPort := fun _ s h => exec_of_not_inRange h s

/-! ## The checks in the fields of a request -/

/-- The checks that decide the refusal, in the fields of the request (30_encoding.md R46, R47). -/
theorem inRange_iff_of_request {i : Instr} {req : Request} (henc : encode i = .request req) :
    i.inRange = true ↔ reqOp req ≠ 7#3 ∧ ¬ outsideRange req := by
  cases i with
  | decode a b | decodeJit a b | decodeName a b | index a b =>
    cases henc
    simp [Instr.inRange, outsideRange]
  | isBranch a b =>
    cases henc
    simp [Instr.inRange, indexInRange_iff, outsideRange]
  | rotmask a b =>
    cases henc
    simp [Instr.inRange, mbInRange_iff, outsideRange]
  | tableRead a b =>
    cases henc
    simp [inRange_tableRead_iff_bits, outsideRange]
  | reserved a b =>
    cases henc
    simp [Instr.inRange]
  | _ => cases henc

/-- In range, the requests that BUILDING holds are those that read a table (44_dispatcher.md R87). -/
theorem heldWhileBuilding_iff_of_request {i : Instr} {req : Request} (henc : encode i = .request req)
    (hin : i.inRange = true) : heldWhileBuilding i = true ↔ readsTable req := by
  cases i with
  | decode a b | decodeJit a b | decodeName a b | isBranch a b | index a b | rotmask a b =>
    cases henc
    simp [heldWhileBuilding, readsTable]
  | tableRead a b =>
    cases henc
    simp [heldWhileBuilding, readsTable, hin]
  | reserved a b => exact absurd hin Bool.false_ne_true
  | _ => cases henc

/-! ## The answer -/

theorem ready_of_not_building {s : State} (h : s.phase ≠ .building) : s.phase = .ready := by
  cases hphase : s.phase with
  | building => exact absurd hphase h
  | ready => rfl

/-- A request that is neither refused nor held is answered, with data that only the table entries decide. -/
theorem exec_answered_of_request {i : Instr} {req : Request} (henc : encode i = .request req) (hin : i.inRange = true)
    (s : State) :
    ∃ v, ∀ s' : State, s'.entry = s.entry → (heldWhileBuilding i = true → s'.phase = .ready) →
      exec i s' = .next (s'.answered v) := by
  have hread {s' : State} (hready : s'.phase = .ready) {v v' : Data} (hv : v = v') :
      Host.Outcome.next (s'.respondWhenReady v) = (.next (s'.answered v') : Host.Outcome State Fault Refusal) :=
    congrArg _ (respondWhenReady_eq_answered hready hv)
  cases i with
  | decode w b => exact ⟨_, fun _ he hready => hread (hready rfl) (congrFun (decodeData_eq_of_entry he) w)⟩
  | decodeJit w b => exact ⟨_, fun _ he hready => hread (hready rfl) (congrFun (jitData_eq_of_entry he) w)⟩
  | decodeName w b => exact ⟨_, fun _ he hready => hread (hready rfl) (congrFun (nameData_eq_of_entry he) w)⟩
  | isBranch a b => exact ⟨_, fun s' _ _ => exec_isBranch_of_inRange hin b s'⟩
  | index w b => exact ⟨_, fun _ _ _ => rfl⟩
  | rotmask a b => exact ⟨_, fun s' _ _ => exec_rotmask_of_inRange hin b s'⟩
  | tableRead a b =>
    obtain ⟨ha, sel, hb⟩ := inRange_tableRead_iff.1 hin
    exact ⟨_, fun s' he hready => (exec_tableRead_of_inRange ha hb s').trans
      (hread (hready hin) (congrFun₂ (entryData_eq_of_entry he) sel (indexOperand a)))⟩
  | reserved a b => exact absurd hin Bool.false_ne_true
  | _ => cases henc

/-- Settles O28: `inRange` decides the refusal, then `heldWhileBuilding` with the phase the hold, and both are read off the
fields of the request. -/
theorem checksInOrder : Obligations.ChecksInOrder := by
  intro req s
  have henc : encode (decode (.request req)) = .request req := encodeOfDecodedRequest req
  have hrange := inRange_iff_of_request henc
  have hrefused (h : ¬ (reqOp req ≠ 7#3 ∧ ¬ outsideRange req)) : refuses (decode (.request req)) s :=
    refuses_of_exec (exec_of_not_inRange (Bool.eq_false_iff.2 (mt hrange.1 h)) s)
  refine ⟨fun hop => hrefused fun ⟨hne, _⟩ => hne hop, fun _ hout => hrefused fun ⟨_, hin⟩ => hin hout,
    fun hop hin hreads hbuilding => ?held, fun hop hin hfree => ?answered⟩
  case held => exact exec_held hbuilding ((heldWhileBuilding_iff_of_request henc (hrange.2 ⟨hop, hin⟩)).2 hreads)
  case answered =>
    have hin := hrange.2 ⟨hop, hin⟩
    obtain ⟨v, hv⟩ := exec_answered_of_request henc hin s
    exact ⟨v, hv s rfl fun hheld => ready_of_not_building fun hbuilding =>
      hfree ⟨(heldWhileBuilding_iff_of_request henc hin).1 hheld, hbuilding⟩⟩

/-! ## Every step -/

theorem outcomeOf_refusalMark {s t : State} (h : outcomeOf s t) (hs : s.refusalMark = true) : t.refusalMark = true := by
  obtain rfl | ⟨v, m, rfl⟩ | rfl := h
  · exact hs
  · exact hs
  · rfl

/-- No move clears the refusal mark (60_exceptions.md R98; for the reset notes/assumptions/10.md). -/
theorem perform_refusalMark {s t : State} {m : Move} (hs : s.refusalMark = true) (h : s.perform m = .next t) :
    t.refusalMark = true := by
  obtain ⟨n, p, -, rfl⟩ | ⟨n, -, hserve⟩ | ⟨-, rfl⟩ | ⟨-, rfl⟩ := perform_cases h
  · exact hs
  · obtain ⟨-, rfl⟩ | ⟨p, -, hout⟩ := serve_cases hserve
    · exact hs
    · exact outcomeOf_refusalMark hout hs
  · obtain ⟨-, -, hmark, -, -⟩ := buildMove_frame s
    exact hmark.trans hs
  · exact hs

/-- Settles O30: every move keeps the mark, and so every step. -/
theorem refusalMarkNeverCleared : Obligations.RefusalMarkNeverCleared := fun _ _ h hs =>
  step_keeps (P := fun u => u.refusalMark = true) (fun _ _ hu => hu) (fun _ _ _ => perform_refusalMark) hs h

theorem serve_of_no_request {s : State} {n : Nat} (h : s.pendingAt n = none) : s.serve n = .next s := by
  simp only [State.serve, h]

/-- Every move answers a next state: `exec` always does (60_exceptions.md R96, R97). -/
theorem perform_completes (s : State) (m : Move) : ∃ t, s.perform m = .next t := by
  cases m with
  | issue n p => exact ⟨_, rfl⟩
  | serve n =>
    cases hp : s.pendingAt n with
    | none => exact ⟨s, serve_of_no_request hp⟩
    | some p =>
      obtain ⟨t, ht, -⟩ := exec_outcome (decode p) { s with active := n }
      exact ⟨t, (serve_of_pendingAt hp).trans ht⟩
  | build => exact ⟨_, rfl⟩
  | reset => exact ⟨_, rfl⟩

/-- Settles O31: a step is one move, or the rest. -/
theorem everyStepCompletes : Obligations.EveryStepCompletes := by
  intro s
  cases hagenda : s.agenda with
  | cons m rest => exact step_of_agenda hagenda ▸ perform_completes _ m
  | nil =>
    cases hmove : s.defaultMove with
    | some m => exact step_of_default hagenda hmove ▸ perform_completes s m
    | none => exact ⟨s, step_of_rest hagenda hmove⟩

end Sys2Proof.Machine
end

section
/-!
The ports are apart (60_exceptions.md R100, R107): a request arrives on its own port, and what the block does with it is a
change of that port and perhaps the refusal mark, which nothing decides but the request, the phase and the table entries.
-/

namespace Sys2Proof.Machine

/-! ## Attention to a port as a change of that port -/

/-- Port `n` changes by `f`, and the refusal mark is set if `mark` says so. -/
def State.changePort (s : State) (n : Nat) (f : Port → Port) (mark : Bool) : State :=
  { s with ports := s.ports.modify n f, refusalMark := s.refusalMark || mark }

theorem changePort_id (s : State) (n : Nat) : s.changePort n id false = s := by
  simp [State.changePort, List.modify_id]

theorem setPort_eq_changePort (s : State) (q : Port) : s.setPort q = s.changePort s.active (fun _ => q) false := by
  simp [State.changePort, State.setPort, List.set_eq_modify]

theorem refuse_eq_changePort (s : State) :
    s.refuse = s.changePort s.active (fun _ => { pending := none, response := none, marks := none }) true := by
  simp [State.changePort, State.refuse, State.setPort, List.set_eq_modify]

/-- A change of another port leaves the request of a port. -/
theorem pendingAt_changePort_ne {n m : Nat} (h : n ≠ m) (s : State) (f : Port → Port) (mark : Bool) :
    (s.changePort n f mark).pendingAt m = s.pendingAt m := by
  simp only [State.pendingAt, State.changePort, List.getElem?_modify_ne f s.ports h]

/-- The two states are alike in what an instruction reads: the phase and the table entries (10_state.md R27). -/
def readsAlike (s s' : State) : Prop := s'.phase = s.phase ∧ s'.entry = s.entry

/-- A bare word is a read of the tables, held while BUILDING (notes/assumptions/12.md). -/
theorem exec_of_word {i : Instr} {w : InstrWord} (henc : encode i = .word w) :
    heldWhileBuilding i = true ∧ ∀ s, exec i s = .next (s.answerWord w) := by
  cases i with
  | nop | ori rest | add rest | addRc rest | branch rest | bc rest | bclr rest lk | bcctr rest lk | rfid rest lk =>
    cases henc
    exact ⟨rfl, fun _ => rfl⟩
  | _ => cases henc

/-- What is neither refused nor held leaves on its port a content that only the table entries decide. -/
theorem exec_answered {i : Instr} (hin : i.inRange = true) (s : State) :
    ∃ q : Port, ∀ s' : State, s'.entry = s.entry → (heldWhileBuilding i = true → s'.phase = .ready) →
      exec i s' = .next (s'.setPort q) := by
  cases henc : encode i with
  | request req =>
    obtain ⟨v, hv⟩ := exec_answered_of_request henc hin s
    exact ⟨_, hv⟩
  | word w =>
    obtain ⟨hheld, hexec⟩ := exec_of_word henc
    refine ⟨{ pending := none, response := some (s.decodeData w), marks := some (s.marksOf w) },
      fun s' he hready => ?_⟩
    rw [hexec, answerWord_ready (hready hheld), decodeData_eq_of_entry he, marksOf_eq_of_entry he]
    rfl

/-- One change of the active port is what `exec` does to every state that reads alike. -/
theorem exec_changePort (i : Instr) (s : State) :
    ∃ f mark, ∀ s', readsAlike s s' → exec i s' = .next (s'.changePort s'.active f mark) := by
  by_cases hin : i.inRange = true
  · by_cases hheld : heldWhileBuilding i = true ∧ s.phase = .building
    · obtain ⟨hheld, hbuilding⟩ := hheld
      refine ⟨id, false, fun s' ⟨hphase, _⟩ => ?_⟩
      rw [exec_held (hphase.trans hbuilding) hheld, changePort_id]
    · obtain ⟨q, hq⟩ := exec_answered hin s
      exact ⟨_, false, fun s' ⟨hphase, he⟩ => setPort_eq_changePort s' q ▸ hq s' he fun h =>
        hphase.trans (ready_of_not_building fun hbuilding => hheld ⟨h, hbuilding⟩)⟩
  · exact ⟨_, true, fun s' _ => refuse_eq_changePort s' ▸ exec_of_not_inRange (Bool.eq_false_iff.2 hin) s'⟩

/-- Attention to port `n` changes that port by `f` and the refusal mark by `mark`, in every state that reads like `s` and
has the same request there. -/
def servesBy (s : State) (n : Nat) (f : Port → Port) (mark : Bool) : Prop :=
  ∀ s', readsAlike s s' → s'.pendingAt n = s.pendingAt n →
    ∃ a, s'.serve n = .next ({ s' with active := a }.changePort n f mark)

theorem exists_servesBy (s : State) (n : Nat) : ∃ f mark, servesBy s n f mark := by
  cases hp : s.pendingAt n with
  | none =>
    refine ⟨id, false, fun s' _ hp' => ⟨s'.active, ?_⟩⟩
    rw [serve_of_no_request (hp'.trans hp), changePort_id]
  | some p =>
    obtain ⟨f, mark, hexec⟩ := exec_changePort (decode p) s
    exact ⟨f, mark, fun s' hreads hp' =>
      ⟨n, (serve_of_pendingAt (hp'.trans hp)).trans (hexec { s' with active := n } hreads)⟩⟩

/-! ## Two ports -/

/-- Attention to port `n` and then to port `m` makes the changes that each would make alone. -/
theorem serve_serve {s t t' : State} {n m : Nat} {f g : Port → Port} {x y : Bool} (hne : n ≠ m)
    (hn : servesBy s n f x) (hm : servesBy s m g y) (ht : s.serve n = .next t) (ht' : t.serve m = .next t') :
    ∃ a, t' = ({ s with active := a }.changePort n f x).changePort m g y := by
  obtain ⟨a, ha⟩ := hn s ⟨rfl, rfl⟩ rfl
  obtain rfl := Host.Outcome.next.inj (ht.symm.trans ha)
  obtain ⟨b, hb⟩ := hm ({ s with active := a }.changePort n f x) ⟨rfl, rfl⟩ (pendingAt_changePort_ne hne _ f x)
  exact ⟨b, Host.Outcome.next.inj (ht'.symm.trans hb)⟩

/-- Settles O34: changes of two ports commute. -/
theorem portsDoNotInteract : Obligations.PortsDoNotInteract := by
  intro s t t' u u' n m hne ht ht' hu hu'
  obtain ⟨f, x, hn⟩ := exists_servesBy s n
  obtain ⟨g, y, hm⟩ := exists_servesBy s m
  obtain ⟨a, rfl⟩ := serve_serve hne hn hm ht ht'
  obtain ⟨b, rfl⟩ := serve_serve hne.symm hm hn hu hu'
  simp only [State.changePort, List.modify_modify_ne f g s.ports hne, Bool.or_right_comm]

/-! ## The arrival of a request -/

theorem issue_ports_other {n j : Nat} (h : j ≠ n) (s : State) (p : Presented) :
    (s.issue n p).ports[j]? = s.ports[j]? :=
  List.getElem?_modify_ne _ s.ports h.symm

theorem issue_ports_free {s : State} {n : Nat} {q : Port} (h : s.ports[n]? = some q) (hq : q.pending = none)
    (p : Presented) :
    (s.issue n p).ports[n]? = some { pending := some p, response := none, marks := none } := by
  simp [State.issue, h, hq]

theorem issue_busy {s : State} {n : Nat} {q : Port} (h : s.ports[n]? = some q) (hq : q.pending ≠ none)
    (p : Presented) : s.issue n p = s := by
  obtain ⟨r, hr⟩ := Option.ne_none_iff_exists'.1 hq
  have hports : (s.issue n p).ports = s.ports := by
    apply List.ext_getElem?
    intro j
    by_cases hj : j = n
    · simp [State.issue, hj, h, hr]
    · exact issue_ports_other hj s p
  calc s.issue n p = { s with ports := (s.issue n p).ports } := rfl
    _ = s := by rw [hports]

/-- Settles O59: the arrival reaches one port, and that one if it is free. -/
theorem requestArrivesOnItsPort : Obligations.RequestArrivesOnItsPort := fun s n p _ hport =>
  ⟨s.issue n p, rfl, fun hfree => issue_ports_free hport hfree p, fun hbusy => issue_busy hport hbusy p,
    fun _ hj => issue_ports_other hj s p⟩

end Sys2Proof.Machine
end

section
/-!
The fast path of DECODE beside the table (70_reset_and_hazards.md R116): DECODE is the raw read of the interpreter entry of
the word's index, but for the no-op word, whose answer `NOP` no entry holds.
-/

namespace Sys2Proof.Machine

/-- An index as the operand of a command passes its range check (30_encoding.md R46). -/
theorem indexInRange_setWidth (idx : DecodeIndex) : indexInRange (idx.setWidth 32) = true := by
  have hlt := idx.isLt
  simp only [indexInRange, beq_iff_eq, ← BitVec.toNat_inj, BitVec.extractLsb'_toNat, BitVec.toNat_setWidth,
    BitVec.toNat_ofNat, Nat.shiftRight_eq_div_pow]
  omega

@[simp] theorem indexOperand_setWidth (idx : DecodeIndex) : indexOperand (idx.setWidth 32) = idx := by
  have hlt := idx.isLt
  simp only [indexOperand, ← BitVec.toNat_inj, BitVec.extractLsb'_toNat, BitVec.toNat_setWidth, Nat.shiftRight_zero]
  omega

/-- Once READY the raw read of an index answers its built interpreter entry (44_dispatcher.md R91). -/
theorem exec_tableRead_it {s : State} (hs : s.Inv) (hready : s.phase = .ready) (idx : DecodeIndex) :
    exec (.tableRead (idx.setWidth 32) 0#6) s = .next (s.answered (BitVec.ofNat 64 (built s.params idx).interp)) := by
  obtain ⟨hit, -⟩ := holds_built_of_inv hs hready idx
  exact exec_tableRead_of_read hready (sel := .it) (indexInRange_setWidth idx) (by decide)
    ((indexOperand_setWidth idx).symm ▸ hit)

/-- No built interpreter entry answers as DECODE's fast path does: no pattern names `NOP` (43_table_set.md R78 W7), and a
response holds a whole id. -/
theorem ofNat_built_interp_ne_nop {p : Params} (h : paramsWf p = true) (idx : DecodeIndex) :
    BitVec.ofNat 64 (built p idx).interp ≠ 2#64 := by
  obtain ⟨⟨-, hwidth⟩, -⟩ := widths_of_wf h
  obtain ⟨⟨hlt, hnop⟩, -⟩ := tripleIdsOk_iff.1 (tripleIdsOk_built h idx)
  have hlt64 : (built p idx).interp < 2 ^ 64 := hlt.trans_le (Nat.pow_le_pow_right (by decide) hwidth)
  intro heq
  have hmod := congrArg BitVec.toNat heq
  rw [BitVec.toNat_ofNat, Nat.mod_eq_of_lt hlt64] at hmod
  exact hnop hmod

/-- Settles O21: the no-op word has index 0x18, whose entry is not `NOP`; for any other word both commands answer the
interpreter entry of its index. -/
theorem fastPathDivergence : Obligations.FastPathDivergence := by
  intro s b hs hready
  have hindex : indexOf 0x60000000#32 = 0x18#17 := by decide
  refine ⟨⟨exec_decode_nopWord hready b, ?jit, ?name, exec_tableRead_it hs hready 0x18#17,
    ofNat_built_interp_ne_nop hs.params _⟩, fun w hw => ?other⟩
  case jit =>
    obtain ⟨-, hjt, -⟩ := holds_built_of_inv hs hready (indexOf 0x60000000#32)
    exact hindex ▸ exec_decodeJit_of_read hready hjt b
  case name =>
    obtain ⟨-, -, hnt⟩ := holds_built_of_inv hs hready (indexOf 0x60000000#32)
    exact hindex ▸ exec_decodeName_of_read hready hnt b
  case other =>
    obtain ⟨hit, -⟩ := holds_built_of_inv hs hready (indexOf w)
    exact (exec_decode_of_read hready hw hit b).trans (exec_tableRead_it hs hready (indexOf w)).symm

end Sys2Proof.Machine
end

section
/-!
Liveness (70_reset_and_hazards.md R111, R121): with an empty agenda a step answers the first request that need not be held,
or else brings READY one move nearer, until READY is reached and no request is left. What a request leaves on its port does
not depend on the step that ran it, so every request stands at the end as `exec` would leave it then.
-/

namespace Sys2Proof.Machine

/-! ## The first request that need not be held -/

/-- The port that the default order attends to (notes/assumptions/2.md). -/
theorem nextPort_eq_some_iff {s : State} {n : Nat} :
    s.nextPort = some n ↔ ∃ q, s.ports[n]? = some q ∧ s.answerable q = true ∧
      ∀ (m : Nat) (q' : Port), m < n → s.ports[m]? = some q' → s.answerable q' = false := by
  simp only [State.nextPort, List.findIdx?_eq_some_iff_getElem, List.getElem?_eq_some_iff, Bool.not_eq_true]
  constructor
  · rintro ⟨hn, hq, hbefore⟩
    refine ⟨s.ports[n], ⟨hn, rfl⟩, hq, ?_⟩
    rintro m q' hm ⟨hlt, rfl⟩
    exact hbefore m hm
  · rintro ⟨q, ⟨hn, rfl⟩, hq, hbefore⟩
    exact ⟨hn, hq, fun m hm => hbefore m _ hm ⟨hm.trans hn, rfl⟩⟩

/-- A request can be answered unless it is held (44_dispatcher.md R87). -/
theorem answerable_iff {s : State} {q : Port} :
    s.answerable q = true ↔
      ∃ p, q.pending = some p ∧ (heldWhileBuilding (decode p) = true → s.phase = .ready) := by
  cases hq : q.pending with
  | none => simp [State.answerable, hq]
  | some p => simp [State.answerable, hq, State.ready, or_iff_not_imp_right]

/-- With an empty agenda the step runs the request of that port. -/
theorem step_of_nextPort {s : State} {n : Nat} {p : Presented} (hagenda : s.agenda = []) (hnext : s.nextPort = some n)
    (hp : s.pendingAt n = some p) : step s = exec (decode p) { s with active := n } :=
  (step_of_default hagenda (m := .serve n) (by simp only [State.defaultMove, hnext])).trans (serve_of_pendingAt hp)

/-! ## What a request leaves on its port -/

/-- In range, what is never held reads no table, so its response is the same in every state. -/
theorem exec_answered_of_not_held {i : Instr} (hin : i.inRange = true) (hfree : heldWhileBuilding i = false) :
    ∃ v, ∀ s, exec i s = .next (s.answered v) := by
  cases i with
  | isBranch a b => exact ⟨_, exec_isBranch_of_inRange hin b⟩
  | index w b => exact ⟨_, fun _ => rfl⟩
  | rotmask a b => exact ⟨_, exec_rotmask_of_inRange hin b⟩
  | tableRead a b => exact absurd (hin.symm.trans hfree) Bool.noConfusion
  | reserved a b => exact absurd hin Bool.false_ne_true
  | _ => exact absurd hfree.symm Bool.false_ne_true

/-- Once READY the response of an instruction in range is the same in every state with the same table entries. -/
theorem exec_response_of_ready {i : Instr} (hin : i.inRange = true) (s : State) :
    ∃ v m, ∀ s' : State, s'.phase = .ready → s'.entry = s.entry →
      exec i s' = .next (s'.setPort { pending := none, response := some v, marks := m }) := by
  cases henc : encode i with
  | request req =>
    obtain ⟨v, hv⟩ := exec_answered_of_request henc hin s
    exact ⟨v, none, fun s' hready he => hv s' he fun _ => hready⟩
  | word w =>
    obtain ⟨-, hexec⟩ := exec_of_word henc
    refine ⟨s.decodeData w, some (s.marksOf w), fun s' hready he => ?_⟩
    rw [hexec, answerWord_ready hready, decodeData_eq_of_entry he, marksOf_eq_of_entry he]
    rfl

/-- What `exec` leaves on the port, and whether it sets the refusal mark, is the same in all READY states with the same
table entries, and in all states if the instruction is never held. -/
theorem exec_leaves (i : Instr) (s : State) :
    ∃ q mark, q.pending = none ∧ ∀ s' : State, (heldWhileBuilding i = true → s'.phase = .ready ∧ s'.entry = s.entry) →
      exec i s' = .next (s'.changePort s'.active (fun _ => q) mark) := by
  cases hin : i.inRange with
  | false => exact ⟨_, true, rfl, fun s' _ => refuse_eq_changePort s' ▸ exec_of_not_inRange hin s'⟩
  | true =>
    cases hheld : heldWhileBuilding i with
    | false =>
      obtain ⟨v, hv⟩ := exec_answered_of_not_held hin hheld
      exact ⟨{ pending := none, response := some v, marks := none }, false, rfl,
        fun s' _ => (hv s').trans (congrArg _ (setPort_eq_changePort s' _))⟩
    | true =>
      obtain ⟨v, m, hv⟩ := exec_response_of_ready hin s
      refine ⟨{ pending := none, response := some v, marks := m }, false, rfl, fun s' h => ?_⟩
      obtain ⟨hready, he⟩ := h rfl
      exact (hv s' hready he).trans (congrArg _ (setPort_eq_changePort s' _))

theorem changePort_getElem?_other {n j : Nat} (h : j ≠ n) (s : State) (f : Port → Port) (mark : Bool) :
    (s.changePort n f mark).ports[j]? = s.ports[j]? :=
  List.getElem?_modify_ne f s.ports h.symm

theorem changePort_getElem?_self {s : State} {n : Nat} {q : Port} (h : s.ports[n]? = some q) (f : Port → Port)
    (mark : Bool) : (s.changePort n f mark).ports[n]? = some (f q) := by
  simp [State.changePort, h]

/-- A change that is already made changes nothing. -/
theorem changePort_eq_self {s : State} {n : Nat} {q : Port} {mark : Bool} (hq : s.ports[n]? = some q)
    (hmark : mark = true → s.refusalMark = true) : s.changePort n (fun _ => q) mark = s := by
  obtain ⟨hn, rfl⟩ := List.getElem?_eq_some_iff.1 hq
  have hbit : (s.refusalMark || mark) = s.refusalMark := by
    cases mark with
    | false => exact Bool.or_false _
    | true => rw [hmark rfl, Bool.true_or]
  simp only [State.changePort, ← List.set_eq_modify, List.set_getElem_self, hbit]

/-! ## One step -/

/-- The port attended to carries a request that is not held. -/
theorem exists_request_of_nextPort {s : State} {n : Nat} (h : s.nextPort = some n) :
    ∃ q p, s.ports[n]? = some q ∧ q.pending = some p ∧ (heldWhileBuilding (decode p) = true → s.phase = .ready) := by
  obtain ⟨q, hq, hanswerable, -⟩ := nextPort_eq_some_iff.1 h
  obtain ⟨p, hp, hheld⟩ := answerable_iff.1 hanswerable
  exact ⟨q, p, hq, hp, hheld⟩

/-- Settles O56: `nextPort` is that first port, and what `exec` leaves there carries no request. -/
theorem answerableRequestGoesFirst : Obligations.AnswerableRequestGoesFirst := by
  intro s n q p hagenda hq hp hanswerable hbefore
  have hnext : s.nextPort = some n := nextPort_eq_some_iff.2 ⟨q, hq, hanswerable, hbefore⟩
  have hstep := step_of_nextPort hagenda hnext (pendingAt_of_getElem? hq hp)
  obtain ⟨p', hp', hheld⟩ := answerable_iff.1 hanswerable
  obtain rfl := Option.some.inj (hp.symm.trans hp')
  obtain ⟨q', mark, hfree, hleaves⟩ := exec_leaves (decode p) s
  have hexec := hleaves { s with active := n } fun h => ⟨hheld h, rfl⟩
  refine ⟨hstep, _, hstep.trans hexec, ?free, fun j hj => changePort_getElem?_other hj _ _ _⟩
  case free => simp only [State.pendingAt, changePort_getElem?_self (s := { s with active := n }) hq, hfree]

/-- Settles O60: no port can be attended to, so the step is a move of the build. -/
theorem quietStepBringsReadyNearer : Obligations.QuietStepBringsReadyNearer := by
  intro s hs hagenda hphase hheld
  have hstep := step_eq_buildMove hagenda hphase hheld
  obtain ⟨-, hports, hmark, -, hagenda'⟩ := buildMove_frame s
  exact ⟨hstep, s.buildMove, hstep, buildMovesLeft_buildMove hphase hs.tables, buildMovesLeft_eq_zero_iff _, hports,
    hagenda'.trans hagenda, hmark⟩

/-- Settles O58: the fields of `State.hostReset`, whose ports are all idle. -/
theorem hostResetRestartsTheBuild : Obligations.HostResetRestartsTheBuild := by
  intro s
  have hidle : ∀ q ∈ s.hostReset.ports, q.pending = none := by
    intro q hq
    obtain ⟨_, -, rfl⟩ := List.mem_map.1 hq
    rfl
  exact ⟨s.hostReset, rfl, rfl, rfl, hidle, List.length_map _, rfl, rfl⟩

/-! ## The run to the end -/

/-- Two READY states of one configuration that meet the invariant read the same entries (43_table_set.md R83). -/
theorem entry_eq_of_inv {s t : State} (hs : s.Inv) (ht : t.Inv) (hsr : s.phase = .ready) (htr : t.phase = .ready)
    (hparams : t.params = s.params) : t.entry = s.entry := by
  funext sel idx
  obtain ⟨hit, hjt, hnt⟩ := holds_built_of_inv hs hsr idx
  obtain ⟨hit', hjt', hnt'⟩ := hparams ▸ holds_built_of_inv ht htr idx
  cases sel with
  | it => exact (entry_of_read (sel := .it) hit').trans (entry_of_read (sel := .it) hit).symm
  | jt => exact (entry_of_read (sel := .jt) hjt').trans (entry_of_read (sel := .jt) hjt).symm
  | nt => exact (entry_of_read (sel := .nt) hnt').trans (entry_of_read (sel := .nt) hnt).symm

/-- `t` is an end of the work that `s` has to do: READY, with every request of `s` done. A request is done when running it
once more, in `t`, would change nothing. -/
structure State.Finished (s t : State) : Prop where
  inv : t.Inv
  ready : t.phase = .ready
  params : t.params = s.params
  length : t.ports.length = s.ports.length
  free : ∀ q ∈ t.ports, q.pending = none
  mark : s.refusalMark = true → t.refusalMark = true
  idle : ∀ {n : Nat} {q : Port}, s.ports[n]? = some q → q.pending = none → t.ports[n]? = some q
  done : ∀ {n : Nat} {q : Port} {p : Presented}, s.ports[n]? = some q → q.pending = some p →
    exec (decode p) { t with active := n } = .next { t with active := n }

/-- READY with no request that can be answered is an end: once READY no request is held. -/
theorem finished_self {s : State} (hs : s.Inv) (hready : s.phase = .ready) (hnext : s.nextPort = none) :
    s.Finished s := by
  have hfree : ∀ q ∈ s.ports, q.pending = none := by
    intro q hq
    have hnot : s.answerable q = false := List.findIdx?_eq_none_iff.1 hnext q hq
    rw [Option.eq_none_iff_forall_not_mem]
    intro p hp
    exact Bool.false_ne_true (hnot.symm.trans (answerable_iff.2 ⟨p, hp, fun _ => hready⟩))
  exact {
    inv := hs, ready := hready, params := rfl, length := rfl, free := hfree, mark := id
    idle := fun hq _ => hq
    done := fun hq hp => absurd (hp.symm.trans (hfree _ (List.mem_of_getElem? hq))) (Option.some_ne_none _) }

/-- A move of the build leaves the requests to be done. -/
theorem finished_of_buildMove {s t : State} (h : s.buildMove.Finished t) : s.Finished t := by
  obtain ⟨hparams, hports, hmark, -, -⟩ := buildMove_frame s
  exact {
    inv := h.inv, ready := h.ready, free := h.free
    params := h.params.trans hparams
    length := h.length.trans (congrArg List.length hports)
    mark := fun hs => h.mark (hmark.trans hs)
    idle := fun hq => h.idle (hports ▸ hq)
    done := fun hq => h.done (hports ▸ hq) }

/-- What a request leaves on its port stays there to the end, and is what `exec` of the request would leave there in the
end: an unheld request reads no table, and a held one has waited for READY. -/
theorem finished_of_serve {s t : State} {n : Nat} {q q' : Port} {p : Presented} {mark : Bool} (hs : s.Inv)
    (hq : s.ports[n]? = some q) (hp : q.pending = some p)
    (hheld : heldWhileBuilding (decode p) = true → s.phase = .ready) (hfree : q'.pending = none)
    (hleaves : ∀ s' : State, (heldWhileBuilding (decode p) = true → s'.phase = .ready ∧ s'.entry = s.entry) →
      exec (decode p) s' = .next (s'.changePort s'.active (fun _ => q') mark))
    (h : ({ s with active := n }.changePort n (fun _ => q') mark).Finished t) : s.Finished t := by
  have hother {j : Nat} (hj : j ≠ n) := changePort_getElem?_other hj { s with active := n } (fun _ => q') mark
  have hself := changePort_getElem?_self (s := { s with active := n }) hq (fun _ => q') mark
  have hmark : (s.refusalMark || mark) = true → t.refusalMark = true := h.mark
  have hdone : exec (decode p) { t with active := n } = .next { t with active := n } := by
    have hentry (hh : heldWhileBuilding (decode p) = true) : t.entry = s.entry :=
      entry_eq_of_inv hs h.inv (hheld hh) h.ready h.params
    rw [hleaves { t with active := n } fun hh => ⟨h.ready, hentry hh⟩]
    exact congrArg Host.Outcome.next (changePort_eq_self (s := { t with active := n }) (h.idle hself hfree)
      fun hset => hmark (by rw [hset, Bool.or_true]))
  exact {
    inv := h.inv, ready := h.ready, params := h.params, free := h.free
    length := h.length.trans (List.length_modify ..)
    mark := fun hset => hmark (by rw [hset, Bool.true_or])
    idle := by
      intro j r hr hnone
      by_cases hj : j = n
      · subst hj
        obtain rfl := Option.some.inj (hq.symm.trans hr)
        exact absurd (hp.symm.trans hnone) (Option.some_ne_none _)
      · exact h.idle ((hother hj).trans hr) hnone
    done := by
      intro j r p' hr hp'
      by_cases hj : j = n
      · subst hj
        obtain rfl := Option.some.inj (hq.symm.trans hr)
        obtain rfl := Option.some.inj (hp.symm.trans hp')
        exact hdone
      · exact h.done ((hother hj).trans hr) hp' }

/-- How many ports carry a request. -/
def State.requestCount (s : State) : Nat := s.ports.countP fun q : Port => q.pending.isSome

/-- What `exec` leaves on a port that carried a request is one request fewer. -/
theorem requestCount_changePort {s : State} {n : Nat} {q q' : Port} {p : Presented} (hq : s.ports[n]? = some q)
    (hp : q.pending = some p) (hfree : q'.pending = none) (mark : Bool) :
    (s.changePort n (fun _ => q') mark).requestCount + 1 = s.requestCount := by
  obtain ⟨hn, rfl⟩ := List.getElem?_eq_some_iff.1 hq
  have hpos : 0 < s.requestCount :=
    List.countP_pos_iff.2 ⟨s.ports[n], List.getElem_mem hn, Option.isSome_of_eq_some hp⟩
  have hcount : (s.changePort n (fun _ => q') mark).requestCount = s.requestCount - 1 := by
    simp [State.requestCount, State.changePort, ← List.set_eq_modify, List.countP_set hn, hp, hfree]
  omega

/-- How many steps are left with an empty agenda: the moves of the build and one for each request (70_reset_and_hazards.md
R121). -/
def State.stepsLeft (s : State) : Nat := s.buildMovesLeft + s.requestCount

theorem stepsLeft_buildMove {s : State} (hs : s.Inv) (hphase : s.phase = .building) :
    s.buildMove.stepsLeft < s.stepsLeft := by
  have hleft := buildMovesLeft_buildMove hphase hs.tables
  obtain ⟨-, hports, -⟩ := buildMove_frame s
  have hcount : s.buildMove.requestCount = s.requestCount := by rw [State.requestCount, hports, State.requestCount]
  rw [State.stepsLeft, State.stepsLeft]
  omega

theorem stepsLeft_changePort {s : State} {n : Nat} {q q' : Port} {p : Presented} (hq : s.ports[n]? = some q)
    (hp : q.pending = some p) (hfree : q'.pending = none) (mark : Bool) :
    (s.changePort n (fun _ => q') mark).stepsLeft < s.stepsLeft := by
  have hleft : (s.changePort n (fun _ => q') mark).buildMovesLeft = s.buildMovesLeft := rfl
  have hcount := requestCount_changePort hq hp hfree mark
  rw [State.stepsLeft, State.stepsLeft]
  omega

/-- With an empty agenda a block that is not at an end makes a step that leaves fewer, and what ends the work from there
ends it from here. -/
theorem step_towards_end {s : State} (hs : s.Inv) (hagenda : s.agenda = []) :
    s.Finished s ∨ ∃ s', step s = .next s' ∧ s'.Inv ∧ s'.agenda = [] ∧ s'.stepsLeft < s.stepsLeft ∧
      ∀ t, s'.Finished t → s.Finished t := by
  cases hnext : s.nextPort with
  | some n =>
    obtain ⟨q, p, hq, hp, hheld⟩ := exists_request_of_nextPort hnext
    obtain ⟨q', mark, hfree, hleaves⟩ := exec_leaves (decode p) s
    have hstep := (step_of_nextPort hagenda hnext (pendingAt_of_getElem? hq hp)).trans
      (hleaves { s with active := n } fun h => ⟨hheld h, rfl⟩)
    exact .inr ⟨_, hstep, everyStepKeepsTheTablesAsBuilt _ _ hs hstep, hagenda, stepsLeft_changePort hq hp hfree mark,
      fun _ => finished_of_serve hs hq hp hheld hfree hleaves⟩
  | none =>
    cases hphase : s.phase with
    | ready => exact .inl (finished_self hs hphase hnext)
    | building =>
      obtain ⟨-, -, -, -, hagenda'⟩ := buildMove_frame s
      exact .inr ⟨_, step_eq_buildMove hagenda hphase (List.findIdx?_eq_none_iff.1 hnext), buildMove_inv hs,
        hagenda'.trans hagenda, stepsLeft_buildMove hs hphase, fun _ => finished_of_buildMove⟩

/-- With an empty agenda the block comes to an end of its work, by induction on the steps that are left. -/
theorem run_finishes (s : State) (hs : s.Inv) (hagenda : s.agenda = []) :
    ∃ k t, Sys2Proof.core.run k s = .next t ∧ s.Finished t := by
  obtain hend | ⟨s', hstep, hs', hagenda', hless, hback⟩ := step_towards_end hs hagenda
  · exact ⟨0, s, rfl, hend⟩
  · obtain ⟨k, t, hrun, hend⟩ := run_finishes s' hs' hagenda'
    exact ⟨k + 1, t, (run_succ hstep).trans hrun, hback t hend⟩
termination_by s.stepsLeft

/-- A port set to a content that changes nothing holds that content. -/
theorem getElem?_of_eq_set {l : List Port} {n : Nat} {q : Port} (hn : n < l.length) (h : l = l.set n q) :
    l[n]? = some q :=
  (congrArg (·[n]?) h).trans (List.getElem?_set_self hn)

/-- Settles O55: at the end of the run `exec` of each request would change nothing, so its port holds what it leaves. -/
theorem everyRequestLeavesItsPort : Obligations.EveryRequestLeavesItsPort := by
  intro s hs hagenda
  obtain ⟨k, t, hrun, h⟩ := run_finishes s hs hagenda
  refine ⟨k, t, hrun, h.ready, h.params, h.free, fun n q hq => ⟨h.idle hq, fun p hp => ?_⟩⟩
  have hn : n < t.ports.length := h.length ▸ (List.getElem?_eq_some_iff.1 hq).1
  have hdone := h.done hq hp
  refine ⟨⟨_, hdone, rfl⟩, fun hin => ?response, fun hout => ?refusal⟩
  case response =>
    obtain ⟨u, hu, v, m, rfl⟩ := exec_answers_of_ready (s := { t with active := n }) h.ready hin
    have hsame := Host.Outcome.next.inj (hdone.symm.trans hu)
    exact ⟨v, m, getElem?_of_eq_set hn (congrArg State.ports hsame)⟩
  case refusal =>
    have hsame := Host.Outcome.next.inj (hdone.symm.trans (exec_of_not_inRange hout { t with active := n }))
    exact ⟨getElem?_of_eq_set hn (congrArg State.ports hsame), congrArg State.refusalMark hsame⟩

end Sys2Proof.Machine
end

section
/-!
The step that serves a port, and the branch opcodes (45_branch_classifier.md R93, R94): an index is a branch by its
primary opcode alone, or by its primary and extended opcodes; a word is one by the same fields; and the branch indices
are counted by the bits that these fields leave free.
-/

namespace Sys2Proof.Machine

/-! ## The step that serves a port -/

/-- Settles O6: the agenda's first move is the step, and it serves the request that the port carries. -/
theorem stepServesPendingRequest : Obligations.StepServesPendingRequest := by
  intro s n rest p hagenda hp
  have hpending : State.pendingAt { s with agenda := rest } n = some p := hp
  exact (step_of_agenda hagenda).trans (serve_of_pendingAt hpending)

/-! ## The five branch opcodes -/

/-- The branch verdict by the two opcode fields (R93). -/
theorem isBranchIndex_iff_fields (idx : DecodeIndex) :
    isBranchIndex idx = true ↔
      idxPO idx = 18#6 ∨ idxPO idx = 16#6 ∨ (idxPO idx = 19#6 ∧ idxXO idx = 16#10) ∨
        (idxPO idx = 19#6 ∧ idxXO idx = 528#10) ∨ (idxPO idx = 19#6 ∧ idxXO idx = 18#10) := by
  simp only [isBranchIndex, Bool.or_eq_true, Bool.and_eq_true, beq_iff_eq, and_or_left, or_assoc]

/-- The branch verdict on a word's index, by the word's own fields. -/
theorem isBranchIndex_indexOf_iff (w : InstrWord) :
    isBranchIndex (indexOf w) = true ↔
      wordPO w = 18#6 ∨ wordPO w = 16#6 ∨ (wordPO w = 19#6 ∧ wordXO w = 16#10) ∨
        (wordPO w = 19#6 ∧ wordXO w = 528#10) ∨ (wordPO w = 19#6 ∧ wordXO w = 18#10) := by
  rw [isBranchIndex_iff_fields, idxPO_indexOf, idxXO_indexOf]

/-- The branch verdict on a word's index, by the match and mask pairs (30_encoding.md R52). -/
theorem isBranchIndex_indexOf_iff_masks (w : InstrWord) :
    isBranchIndex (indexOf w) = true ↔
      w &&& 0xFC000000#32 = 0x48000000#32 ∨ w &&& 0xFC000000#32 = 0x40000000#32 ∨
        w &&& 0xFC0007FE#32 = 0x4C000020#32 ∨ w &&& 0xFC0007FE#32 = 0x4C000420#32 ∨
        w &&& 0xFC0007FE#32 = 0x4C000024#32 := by
  have hpo : ∀ po : BitVec 6, wordPO w = po ↔ w &&& 0xFC000000#32 = poWord po 0#26 := fun _ => and_poMask_eq_iff.symm
  have hxl : ∀ xo : BitVec 10, wordPO w = 19#6 ∧ wordXO w = xo ↔ w &&& 0xFC0007FE#32 = xlWord 19#6 0#15 xo 0#1 :=
    fun _ => and_xlMask_eq_iff.symm
  rw [isBranchIndex_indexOf_iff]
  exact or_congr (hpo 18#6) (or_congr (hpo 16#6) (or_congr (hxl 16#10) (or_congr (hxl 528#10) (hxl 18#10))))

/-- IS_BRANCH of a 17-bit index is in range, and answers the verdict on it (R93). -/
theorem exec_isBranch_setWidth (idx : DecodeIndex) (b : OperandB) (s : State) :
    exec (.isBranch (idx.setWidth 32) b) s = .next (s.answered (verdictData (isBranchIndex idx))) := by
  rw [exec_isBranch_of_inRange (indexInRange_setWidth idx), indexOperand_setWidth]
  rfl

/-! ## How many indices are branches -/

/-- An injection of `n` free bits has `2 ^ n` values. -/
theorem ncard_range_bits {α : Type} {n : Nat} {f : BitVec n → α} (hf : Function.Injective f) :
    Set.ncard (Set.range f) = 2 ^ n := by
  rw [Set.ncard_range_of_injective hf, Nat.card_congr BitVec.equivFin.toEquiv, Nat.card_fin]

theorem append_injective_left {m n : Nat} (y : BitVec n) : Function.Injective fun x : BitVec m => x ++ y := by
  intro x x' h
  simpa only [BitVec.extractLsb'_append_eq_left] using congrArg (BitVec.extractLsb' n m) h

theorem append_injective_right {m n : Nat} (x : BitVec m) : Function.Injective fun y : BitVec n => x ++ y := by
  intro y y' h
  simpa only [BitVec.extractLsb'_append_eq_right] using congrArg (BitVec.extractLsb' 0 n) h

/-- A primary opcode leaves the 11 bits of `F` free. -/
theorem ncard_indices_of_po (po : BitVec 6) : Set.ncard {idx : DecodeIndex | idxPO idx = po} = 2 ^ 11 := by
  have hrange : {idx : DecodeIndex | idxPO idx = po} = Set.range fun f : BitVec 11 => f ++ po := by
    ext idx
    constructor
    · rintro rfl
      exact ⟨idxF idx, idxF_append_idxPO idx⟩
    · rintro ⟨f, rfl⟩
      exact BitVec.extractLsb'_append_eq_right
  rw [hrange, ncard_range_bits (append_injective_left po)]

/-- A primary and an extended opcode leave one bit free, `idx[6]`. -/
theorem ncard_indices_of_po_xo (po : BitVec 6) (xo : BitVec 10) :
    Set.ncard {idx : DecodeIndex | idxPO idx = po ∧ idxXO idx = xo} = 2 := by
  have hrange : {idx : DecodeIndex | idxPO idx = po ∧ idxXO idx = xo} =
      Set.range fun lk : BitVec 1 => xo ++ lk ++ po := by
    ext idx
    constructor
    · rintro ⟨rfl, rfl⟩
      have hF : idxXO idx ++ idx.extractLsb' 6 1 = idxF idx := BitVec.extractLsb'_append_extractLsb'_eq_extractLsb' rfl
      exact ⟨idx.extractLsb' 6 1, (congrArg (· ++ idxPO idx) hF).trans (idxF_append_idxPO idx)⟩
    · rintro ⟨lk, rfl⟩
      have hxo : idxXO (xo ++ lk ++ po) = xo := by
        rw [← indexOf_fWord po 0#15, ← xlWord_eq_fWord, idxXO_indexOf, wordXO_xlWord]
      exact ⟨BitVec.extractLsb'_append_eq_right, hxo⟩
  rw [hrange]
  exact ncard_range_bits ((append_injective_left po).comp (append_injective_right xo))

/-- Conditions of which no index meets both are counted apart. -/
theorem ncard_setOf_or {p q : DecodeIndex → Prop} (h : ∀ idx, p idx → ¬ q idx) :
    Set.ncard {idx | p idx ∨ q idx} = Set.ncard {idx | p idx} + Set.ncard {idx | q idx} :=
  Set.ncard_union_eq (Set.disjoint_left.2 h)

/-- The five opcodes exclude each other, so the count is `2048 + 2048 + 2 + 2 + 2` (R94). -/
theorem ncard_branch_indices : Set.ncard {idx : DecodeIndex | isBranchIndex idx = true} = 4102 := by
  simp only [isBranchIndex_iff_fields]
  calc _ = 2 ^ 11 + (2 ^ 11 + (2 + (2 + 2))) := by
        rw [ncard_setOf_or ?po18, ncard_setOf_or ?po16, ncard_setOf_or ?bclr, ncard_setOf_or ?bcctr,
          ncard_indices_of_po, ncard_indices_of_po, ncard_indices_of_po_xo, ncard_indices_of_po_xo,
          ncard_indices_of_po_xo]
        case po18 => intro idx hpo; simp [hpo]
        case po16 => intro idx hpo; simp [hpo]
        case bclr => rintro idx ⟨-, hxo⟩; simp [hxo]
        case bcctr => rintro idx ⟨-, hxo⟩; simp [hxo]
    _ = 4102 := rfl

/-- Settles O13: the answer is the verdict, which the masks decide; the count is by the bits the opcodes leave free. -/
theorem branchWords : Obligations.BranchWords := by
  refine ⟨fun w b s => ⟨fun hbr => ?branch, fun hbr => ?other⟩, ncard_branch_indices⟩
  case branch => rw [exec_isBranch_setWidth, (isBranchIndex_indexOf_iff_masks w).2 hbr]; rfl
  case other => rw [exec_isBranch_setWidth, Bool.eq_false_iff.2 (mt (isBranchIndex_indexOf_iff_masks w).1 hbr)]; rfl

/-! ## The bare branch words -/

theorem indexOf_xlWord (po : BitVec 6) (rest : BitVec 15) (xo : BitVec 10) (lk : BitVec 1) :
    indexOf (xlWord po rest xo lk) = xo ++ lk ++ po := by
  rw [xlWord_eq_fWord, indexOf_fWord]

/-- A bare branch word is answered from the entries of its index, as a branch: the no-op word is none. -/
theorem answersWord_of_branch {i : Instr} {s : State} {w : InstrWord} (hready : s.phase = .ready)
    (hexec : exec i s = .next (s.answerWord w)) (hbr : isBranchIndex (indexOf w) = true) :
    answersWord i (indexOf w) true s := by
  have hne : w ≠ nopWord := by
    rintro rfl
    exact absurd hbr (by decide)
  exact hbr ▸ answersWord_of_exec hready hexec hne

/-- A bare word of a branch's primary opcode (30_encoding.md R52). -/
theorem answersWord_poWord {i : Instr} {s : State} {po : BitVec 6} {rest : BitVec 26} (hready : s.phase = .ready)
    (hexec : exec i s = .next (s.answerWord (poWord po rest))) (hpo : po = 18#6 ∨ po = 16#6) :
    answersWord i (rest.extractLsb' 0 11 ++ po) true s := by
  rw [← indexOf_poWord]
  refine answersWord_of_branch hready hexec ((isBranchIndex_indexOf_iff _).2 ?_)
  rw [wordPO_poWord]
  exact hpo.imp_right .inl

/-- A bare word of primary opcode 19 and a branch's extended opcode (30_encoding.md R52). -/
theorem answersWord_xlWord {i : Instr} {s : State} {rest : BitVec 15} {xo : BitVec 10} {lk : BitVec 1}
    (hready : s.phase = .ready) (hexec : exec i s = .next (s.answerWord (xlWord 19#6 rest xo lk)))
    (hxo : xo = 16#10 ∨ xo = 528#10 ∨ xo = 18#10) : answersWord i (xo ++ lk ++ 19#6) true s := by
  rw [← indexOf_xlWord 19#6 rest]
  refine answersWord_of_branch hready hexec ((isBranchIndex_indexOf_iff _).2 ?_)
  simpa using hxo

/-- Settles O26: each of the five rows has one of the branch opcodes. -/
theorem branchWordsAnswer : Obligations.BranchWordsAnswer := fun _ hready =>
  ⟨fun _ => answersWord_poWord hready rfl (.inl rfl), fun _ => answersWord_poWord hready rfl (.inr rfl),
    fun _ _ => ⟨answersWord_xlWord hready rfl (.inl rfl), answersWord_xlWord hready rfl (.inr (.inl rfl)),
      answersWord_xlWord hready rfl (.inr (.inr rfl))⟩⟩

end Sys2Proof.Machine
end
